-- ==== Sys2Proof/Word.lean ====
section
/-! DEFINITION. The widths of what the block handles: bytes, 32-bit register words, 16-bit half-words and the
3-bit fields of a request (R6, R7, R14). Bit 0 is the least significant bit everywhere (R7). -/

namespace Sys2Proof

/-- One byte on the serial bus. -/
abbrev Byte := BitVec 8

/-- A RegisterWord: `WORD_BITS` = 32 (R6). -/
abbrev Word := BitVec 32

/-- The upper half of a 4-byte read (R15, R56). -/
abbrev Half := BitVec 16

/-- A register index operand `r[2:0]`, of which 0 to 6 are legal (R14). -/
abbrev RegIndex := BitVec 3

/-- A byte count operand `count[2:0]`, of which 1 to 4 are legal (R14). -/
abbrev Count := BitVec 3

/-- A request's operation selector `op[2:0]` (R60). -/
abbrev Selector := BitVec 3

end Sys2Proof
end

