-- ==== Sys2Proof/Config.lean ====
section
/-! DEFINITION. The parameters of the block: the constants the source fixes (R6), the record `REG1` (R101), and
the free values (the peripheral's answers R38, `RX_FILL` R50, the host's open parameters R6). None of them changes
during a run (R26). -/

namespace Sys2Proof.Config

/-- `OP_START_TOF` (R6, R64). -/
def opStartTof : Byte := 0x01#8
/-- `OP_RESET` (R6, R64). -/
def opReset : Byte := 0x50#8
/-- `OP_INIT` (R6, R64). -/
def opInit : Byte := 0x70#8
/-- `OP_WRITE_REG_BASE` (R6; 90_conflicts.md C2: also called `WRITE_BASE`). -/
def opWriteRegBase : Byte := 0x80#8
/-- `OP_READ_REG_BASE` (R6; C2: also called `READ_BASE`). -/
def opReadRegBase : Byte := 0xB0#8
/-- `REG_INDEX_MAX` (R6). -/
def regIndexMax : Nat := 6
/-- `READ_COUNT_MIN` (R6, D8). -/
def readCountMin : Nat := 1
/-- `READ_COUNT_MAX` (R6, D8). -/
def readCountMax : Nat := 4
/-- `WORD_BITS` (R6). -/
def wordBits : Nat := 32
/-- `ALU_CFG_REG`, the index `CFG_START` and `CFG_WIDTH` write (R6). -/
def aluCfgReg : RegIndex := 1#3
/-- `UPPER_HALF_READ_BYTES` (R6). -/
def upperHalfReadBytes : Nat := 4
/-- `T_RESET_MS`, the host's wait after `RESET` (R6, R156). -/
def tResetMs : Nat := 100

/-- Where a field of register 1 lies (R101). -/
structure Place where
  offset : Nat
  width : Nat
  deriving DecidableEq, Repr

/-- The parameter record `REG1` (R101): places and codes of the seven fields of the HIT/ALU word (R19, R58). -/
structure Reg1 where
  hit1 : Place
  hit1Start : Word
  hit1Width : Word
  hit2 : Place
  hit2Start : Word
  hit2Width : Word
  hitin1 : Place
  hitin1Value : Word
  hitin2 : Place
  hitin2Value : Word
  selStartFire : Place
  selStartFireValue : Word
  selTsto2 : Place
  selTsto2Value : Word
  selTsto1 : Place
  selTsto1Value : Word
  deriving DecidableEq, Repr

/-- R101 (a): the place lies inside the 32-bit word. -/
def Place.inWord (p : Place) : Bool :=
  decide (1 ≤ p.width) && decide (p.width ≤ wordBits) && decide (p.offset ≤ 31) &&
    decide (p.offset + p.width ≤ wordBits)

/-- R101 (b): the two places share no bit. -/
def Place.disjoint (p q : Place) : Bool :=
  decide (p.offset + p.width ≤ q.offset) || decide (q.offset + q.width ≤ p.offset)

/-- R101 (c): the value fits the place's width. -/
def Place.holds (p : Place) (v : Word) : Bool := decide (v.toNat < 2 ^ p.width)

/-- The seven places, in the order of the list of R102. -/
def Reg1.places (g : Reg1) : List Place :=
  [g.hit2, g.hit1, g.hitin2, g.hitin1, g.selStartFire, g.selTsto2, g.selTsto1]

/-- No two places of a list share a bit. -/
def pairwiseDisjoint : List Place → Bool
  | [] => true
  | p :: rest => rest.all p.disjoint && pairwiseDisjoint rest

/-- R101 (c): each of the nine values fits its field. -/
def Reg1.valuesFit (g : Reg1) : Bool :=
  g.hit1.holds g.hit1Start && g.hit1.holds g.hit1Width && g.hit2.holds g.hit2Start && g.hit2.holds g.hit2Width &&
    g.hitin1.holds g.hitin1Value && g.hitin2.holds g.hitin2Value && g.selStartFire.holds g.selStartFireValue &&
    g.selTsto2.holds g.selTsto2Value && g.selTsto1.holds g.selTsto1Value

/-- R101 (d): the two modes use different codes in each of the two variable fields. -/
def Reg1.modesDiffer (g : Reg1) : Bool :=
  decide (g.hit1Start ≠ g.hit1Width) && decide (g.hit2Start ≠ g.hit2Width)

/-- R101: the record is well-formed, (a) to (d). -/
def Reg1.wellFormed (g : Reg1) : Bool :=
  g.places.all Place.inWord && pairwiseDisjoint g.places && g.valuesFit && g.modesDiffer

/-- `REG1_GK`, the spec's instance from general knowledge (42_alu_mode.md section 4). No rule depends on it, and no
definition of the machine uses it; it serves the spec's test vectors. -/
def reg1GK : Reg1 where
  hit2 := ⟨28, 4⟩
  hit2Start := 0x1#32
  hit2Width := 0x9#32
  hit1 := ⟨24, 4⟩
  hit1Start := 0x9#32
  hit1Width := 0xA#32
  hitin2 := ⟨19, 3⟩
  hitin2Value := 2#32
  hitin1 := ⟨16, 3⟩
  hitin1Value := 1#32
  selStartFire := ⟨14, 1⟩
  selStartFireValue := 1#32
  selTsto2 := ⟨11, 3⟩
  selTsto2Value := 7#32
  selTsto1 := ⟨8, 3⟩
  selTsto1Value := 3#32

/-- `REG1_T`, the spec's toy instance (95_test_vectors.md), with no claim to describe any chip. -/
def reg1T : Reg1 where
  hit2 := ⟨4, 4⟩
  hit2Start := 0x2#32
  hit2Width := 0x3#32
  hit1 := ⟨0, 4⟩
  hit1Start := 0x3#32
  hit1Width := 0x5#32
  hitin2 := ⟨10, 2⟩
  hitin2Value := 0x2#32
  hitin1 := ⟨8, 2⟩
  hitin1Value := 0x1#32
  selStartFire := ⟨31, 1⟩
  selStartFireValue := 0x1#32
  selTsto2 := ⟨12, 5⟩
  selTsto2Value := 0x15#32
  selTsto1 := ⟨20, 8⟩
  selTsto1Value := 0xC3#32

/-- The record somebody supplies for `REG1`: a free value, nothing is known of its codes (91_not_in_source.md N1,
N2). It is given as the 7 offsets and widths and the 9 values it is made of. -/
opaque reg1Offset : Nat → Nat
/-- See `reg1Offset`. -/
opaque reg1WidthOf : Nat → Nat
/-- See `reg1Offset`. -/
opaque reg1Value : Nat → Word

/-- The supplied record, made of the free numbers. -/
def reg1Supplied : Reg1 where
  hit2 := ⟨reg1Offset 0, reg1WidthOf 0⟩
  hit2Start := reg1Value 0
  hit2Width := reg1Value 1
  hit1 := ⟨reg1Offset 1, reg1WidthOf 1⟩
  hit1Start := reg1Value 2
  hit1Width := reg1Value 3
  hitin2 := ⟨reg1Offset 2, reg1WidthOf 2⟩
  hitin2Value := reg1Value 4
  hitin1 := ⟨reg1Offset 3, reg1WidthOf 3⟩
  hitin1Value := reg1Value 5
  selStartFire := ⟨reg1Offset 4, reg1WidthOf 4⟩
  selStartFireValue := reg1Value 6
  selTsto2 := ⟨reg1Offset 5, reg1WidthOf 5⟩
  selTsto2Value := reg1Value 7
  selTsto1 := ⟨reg1Offset 6, reg1WidthOf 6⟩
  selTsto1Value := reg1Value 8

/-- The parameter `REG1` of the machine: any well-formed record (R101). The record is checked once, when it is
supplied; one that is not well-formed never reaches the machine. Since the supplied record is a free value, the
only fact Lean can prove of `reg1` is that it is well-formed, and every well-formed record is a possible value of
it (DESIGN CHOICE, safe: log entry 6). -/
def reg1 : Reg1 := if reg1Supplied.wellFormed then reg1Supplied else reg1T

/-- The peripheral's answer bytes once the answers listed in State are used up: one free byte for each draw (R18,
R38; log entry 4). -/
opaque peripheralByte : Nat → Byte

/-- `RX_FILL`: what the block drives while it clocks a byte in, one free byte for each draw (R6, R50; log entry 5). -/
opaque rxFill : Nat → Byte

/-- `T_WIDTH_US`, the host's wait after `CFG_WIDTH`: open, a host parameter (R6, R163; log entry 10). -/
opaque tWidthUs : Nat

/-- Which bit of the host's DeviceStateMask records an initialisation failure: not in the source (R114, N19; log
entry 10). -/
opaque initFailureBit : Nat

end Sys2Proof.Config
end

