-- ==== Sys2Proof/Syntax.lean ====
section
/-! DEFINITION. The instructions: one constructor for each of the 24 rows of spec/opcode_table.json (the 7
operations of R60 and the 17 wire commands of R64), and the forms in which one is presented: a request on the
request port (R60), or a wire command in its bytes (R51 to R53). -/

namespace Sys2Proof

/-- A field descriptor (offset, width, value), R59. Offset and width are unsigned integers without a width of
their own (R70), so that `PACK` can check them; the value has 32 bits (R70) (DEDUCED, safe: log entry 3). -/
structure Field where
  offset : Nat
  width : Nat
  value : Word
  deriving DecidableEq, Repr

/-- The instructions, in the order of spec/opcode_table.json. -/
inductive Instr where
  /-- `START_TOF`, opcode 0x01 (R172). -/
  | startTof
  /-- `RESET`, opcode 0x50 (R170). -/
  | reset
  /-- `INIT`, opcode 0x70 (R171). -/
  | init
  /-- `WRITE_REG0`, opcode 0x80 (R173). -/
  | writeReg0 (value : Word)
  /-- `WRITE_REG1`, opcode 0x81 (R174). -/
  | writeReg1 (value : Word)
  /-- `WRITE_REG2`, opcode 0x82 (R175). -/
  | writeReg2 (value : Word)
  /-- `WRITE_REG3`, opcode 0x83 (R176). -/
  | writeReg3 (value : Word)
  /-- `WRITE_REG4`, opcode 0x84 (R177). -/
  | writeReg4 (value : Word)
  /-- `WRITE_REG5`, opcode 0x85 (R178). -/
  | writeReg5 (value : Word)
  /-- `WRITE_REG6`, opcode 0x86 (R179). -/
  | writeReg6 (value : Word)
  /-- `READ_REG0`, opcode 0xB0, then `k` bytes in (R180). -/
  | readReg0 (k : Count)
  /-- `READ_REG1`, opcode 0xB1 (R181). -/
  | readReg1 (k : Count)
  /-- `READ_REG2`, opcode 0xB2 (R182). -/
  | readReg2 (k : Count)
  /-- `READ_REG3`, opcode 0xB3 (R183). -/
  | readReg3 (k : Count)
  /-- `READ_REG4`, opcode 0xB4 (R184). -/
  | readReg4 (k : Count)
  /-- `READ_REG5`, opcode 0xB5 (R185). -/
  | readReg5 (k : Count)
  /-- `READ_REG6`, opcode 0xB6 (R186). -/
  | readReg6 (k : Count)
  /-- `PACK`, selector 000 (R71). -/
  | pack (fields : List Field)
  /-- `SEND_COMMAND`, selector 001 (R81): `cmd` is the opcode byte itself. -/
  | sendCommand (cmd : Byte)
  /-- `WRITE_REGISTER`, selector 010 (R85). -/
  | writeRegister (r : RegIndex) (value : Word)
  /-- `READ_BYTES`, selector 011 (R86). -/
  | readBytes (count : Count) (r : RegIndex)
  /-- `READ_REGISTER_UPPER_HALF`, selector 100 (R87). -/
  | readRegisterUpperHalf (r : RegIndex)
  /-- `CFG_START`, selector 101 (R102). -/
  | cfgStart
  /-- `CFG_WIDTH`, selector 110 (R103). -/
  | cfgWidth
  deriving DecidableEq, Repr

/-- What stands on the request port: the selector and every operand field (R14, R60). Fields an operation does
not list are present and ignored (R60). -/
structure Request where
  op : Selector
  fields : List Field
  cmd : Byte
  r : RegIndex
  value : Word
  count : Count
  deriving DecidableEq, Repr

/-- One item presented to the block: a request on its port (R60), or a wire command in its bytes `tx` with the
number `k` of bytes to clock in (R50 to R53). The second form is the byte form of the pseudo-operations of R63 and
of the wire commands of R170 to R186 (DESIGN CHOICE, safe: log entry 1). -/
inductive Item where
  | request (q : Request)
  | wire (tx : List Byte) (k : Nat)
  deriving DecidableEq, Repr

/-- What the host does next: present an item, or wait (`DELAY_MS n`, `DELAY_US n`: no operation of the block,
R62, R164) (DESIGN CHOICE, safe: log entry 2). -/
inductive HostEvent where
  | issue (item : Item)
  | delayMs (n : Nat)
  | delayUs (n : Nat)
  deriving DecidableEq, Repr

end Sys2Proof
end

