-- ==== Sys2Proof/WellFormed.lean ====
section
/-! DEFINITION. Which instructions are well-formed: those the encodings of 30_encoding.md can present. A request
with an operand out of range is well-formed: the spec gives it an outcome, a fault (R130). A wire read has its
`k` in 1 to 4 (R53), since a frame with another `k` is no frame of the block (R61). The well-formedness of the
record `REG1` (R101) is `Config.Reg1.wellFormed`. -/

namespace Sys2Proof

/-- A count a read frame may have: `READ_COUNT_MIN` to `READ_COUNT_MAX` (R6, R33, R53). -/
def countInRange (k : Count) : Bool :=
  decide (Config.readCountMin ≤ k.toNat) && decide (k.toNat ≤ Config.readCountMax)

/-- The instruction can be presented to the block (R51 to R53, R60). -/
def Instr.wellFormed (i : Instr) : Bool :=
  match i with
  | .readReg0 k => countInRange k
  | .readReg1 k => countInRange k
  | .readReg2 k => countInRange k
  | .readReg3 k => countInRange k
  | .readReg4 k => countInRange k
  | .readReg5 k => countInRange k
  | .readReg6 k => countInRange k
  | .startTof | .reset | .init => true
  | .writeReg0 _ | .writeReg1 _ | .writeReg2 _ | .writeReg3 _ | .writeReg4 _ | .writeReg5 _ | .writeReg6 _ => true
  | .pack _ | .sendCommand _ | .writeRegister _ _ | .readBytes _ _ | .readRegisterUpperHalf _ => true
  | .cfgStart | .cfgWidth => true

end Sys2Proof
end

