-- ==== Sys2Proof/Decode.lean ====
section
/-! DEFINITION. Decoding of what is presented to the block, total, rejecting by name: a request from its selector
and operand fields (R60), a wire command from its bytes (R51 to R53, R57, R64); and the encoder, written from the
same tables. Then the host's entry `decodeTableWord`. -/

namespace Sys2Proof

/-- Why an item is no instruction. -/
inductive Reject where
  /-- Selector 111 (R60, R61): the block answers `Fault(BadOperation)`. -/
  | badOperation (op : Selector)
  /-- Bytes that are not a frame of this block (R61). -/
  | notAFrame
  deriving DecidableEq, Repr

/-- What decoding answers. -/
inductive Decoded where
  | instr (i : Instr)
  | reject (e : Reject)
  deriving DecidableEq, Repr

/-- The opcode byte of a register-indexed command, `base + r` as an 8-bit addition (R54). -/
def opcodeByte (base : Byte) (r : RegIndex) : Byte := base + r.zeroExtend 8

/-- The four data bytes of a write, most significant first (R52, R55). -/
def wordBytes (v : Word) : List Byte :=
  [v.extractLsb' 24 8, v.extractLsb' 16 8, v.extractLsb' 8 8, v.extractLsb' 0 8]

/-- The word of four data bytes, the first the most significant (R52). -/
def wordOfBytes (b3 b2 b1 b0 : Byte) : Word := ((b3 ++ b2) ++ b1) ++ b0

/-- The write command of an index (R64): none for index 7. -/
def writeInstr (r : RegIndex) (v : Word) : Decoded :=
  if r = 0#3 then .instr (.writeReg0 v)
  else if r = 1#3 then .instr (.writeReg1 v)
  else if r = 2#3 then .instr (.writeReg2 v)
  else if r = 3#3 then .instr (.writeReg3 v)
  else if r = 4#3 then .instr (.writeReg4 v)
  else if r = 5#3 then .instr (.writeReg5 v)
  else if r = 6#3 then .instr (.writeReg6 v)
  else .reject .notAFrame

/-- The read command of an index (R64): none for index 7. -/
def readInstr (r : RegIndex) (k : Count) : Decoded :=
  if r = 0#3 then .instr (.readReg0 k)
  else if r = 1#3 then .instr (.readReg1 k)
  else if r = 2#3 then .instr (.readReg2 k)
  else if r = 3#3 then .instr (.readReg3 k)
  else if r = 4#3 then .instr (.readReg4 k)
  else if r = 5#3 then .instr (.readReg5 k)
  else if r = 6#3 then .instr (.readReg6 k)
  else .reject .notAFrame

/-- Formats `F-CMD` and `F-RD`, one byte out (R51, R53): bits 7:3 of a read opcode are 10110. -/
def decodeOneByte (b : Byte) (k : Nat) : Decoded :=
  if k = 0 then
    if b = Config.opStartTof then .instr .startTof
    else if b = Config.opReset then .instr .reset
    else if b = Config.opInit then .instr .init
    else .reject .notAFrame
  else if b.extractLsb' 3 5 = 0b10110#5 ∧ k ≤ Config.readCountMax then
    readInstr (b.extractLsb' 0 3) (BitVec.ofNat 3 k)
  else .reject .notAFrame

/-- Format `F-WR`, five bytes out and none in (R52): bits 7:3 of the opcode are 10000. -/
def decodeFiveBytes (b : Byte) (v : Word) (k : Nat) : Decoded :=
  if b.extractLsb' 3 5 = 0b10000#5 ∧ k = 0 then writeInstr (b.extractLsb' 0 3) v else .reject .notAFrame

/-- The wire command of a frame's bytes sent and number of bytes clocked in (R57, R64). Any other bytes get the
verdict 'not a frame of this block' (R61). -/
def decodeWire (tx : List Byte) (k : Nat) : Decoded :=
  match tx with
  | [b] => decodeOneByte b k
  | [b, b3, b2, b1, b0] => decodeFiveBytes b (wordOfBytes b3 b2 b1 b0) k
  | _ => .reject .notAFrame

/-- The operation of a request (R60): only the listed operand fields are read. -/
def decodeRequest (q : Request) : Decoded :=
  if q.op = 0b000#3 then .instr (.pack q.fields)
  else if q.op = 0b001#3 then .instr (.sendCommand q.cmd)
  else if q.op = 0b010#3 then .instr (.writeRegister q.r q.value)
  else if q.op = 0b011#3 then .instr (.readBytes q.count q.r)
  else if q.op = 0b100#3 then .instr (.readRegisterUpperHalf q.r)
  else if q.op = 0b101#3 then .instr .cfgStart
  else if q.op = 0b110#3 then .instr .cfgWidth
  else .reject (.badOperation q.op)

/-- Decoding of whatever is presented. -/
def decode (item : Item) : Decoded :=
  match item with
  | .request q => decodeRequest q
  | .wire tx k => decodeWire tx k

/-- A request with every operand field zero. -/
def blankRequest (op : Selector) : Request :=
  { op := op, fields := [], cmd := 0#8, r := 0#3, value := 0#32, count := 0#3 }

/-- The frame of a single-byte command (R51). -/
def encodeCommand (op : Byte) : Item := .wire [op] 0

/-- The frame of a register write (R52). -/
def encodeWrite (r : RegIndex) (v : Word) : Item := .wire (opcodeByte Config.opWriteRegBase r :: wordBytes v) 0

/-- The frame of a register read (R53): `k` is not on the wire. -/
def encodeRead (r : RegIndex) (k : Count) : Item := .wire [opcodeByte Config.opReadRegBase r] k.toNat

/-- The words of an instruction (R51 to R53, R60, R64), operand fields that are not listed zero. -/
def encode (i : Instr) : Item :=
  match i with
  | .startTof => encodeCommand Config.opStartTof
  | .reset => encodeCommand Config.opReset
  | .init => encodeCommand Config.opInit
  | .writeReg0 v => encodeWrite 0#3 v
  | .writeReg1 v => encodeWrite 1#3 v
  | .writeReg2 v => encodeWrite 2#3 v
  | .writeReg3 v => encodeWrite 3#3 v
  | .writeReg4 v => encodeWrite 4#3 v
  | .writeReg5 v => encodeWrite 5#3 v
  | .writeReg6 v => encodeWrite 6#3 v
  | .readReg0 k => encodeRead 0#3 k
  | .readReg1 k => encodeRead 1#3 k
  | .readReg2 k => encodeRead 2#3 k
  | .readReg3 k => encodeRead 3#3 k
  | .readReg4 k => encodeRead 4#3 k
  | .readReg5 k => encodeRead 5#3 k
  | .readReg6 k => encodeRead 6#3 k
  | .pack fields => .request { blankRequest 0b000#3 with fields := fields }
  | .sendCommand cmd => .request { blankRequest 0b001#3 with cmd := cmd }
  | .writeRegister r v => .request { blankRequest 0b010#3 with r := r, value := v }
  | .readBytes count r => .request { blankRequest 0b011#3 with count := count, r := r }
  | .readRegisterUpperHalf r => .request { blankRequest 0b100#3 with r := r }
  | .cfgStart => .request (blankRequest 0b101#3)
  | .cfgWidth => .request (blankRequest 0b110#3)

/-- How many bytes a frame sends, by its first byte (R57); none for a byte that is no opcode (R61). -/
def txLength (b : Byte) : Option Nat :=
  if b = Config.opStartTof ∨ b = Config.opReset ∨ b = Config.opInit then some 1
  else if b.extractLsb' 3 5 = 0b10000#5 ∧ b.extractLsb' 0 3 ≠ 7#3 then some 5
  else if b.extractLsb' 3 5 = 0b10110#5 ∧ b.extractLsb' 0 3 ≠ 7#3 then some 1
  else none

/-- The count a table word is read with: `k` is not on the wire (R57), so a read opcode gets the least count the
format has, and every other opcode 0 (log entry 8). -/
def tableCount (b : Byte) : Nat :=
  if b.extractLsb' 3 5 = 0b10110#5 ∧ b.extractLsb' 0 3 ≠ 7#3 then Config.readCountMin else 0

/-- Byte `n` of a number's bytes, the first byte its least significant bits. -/
def tableByte (w n : Nat) : Byte := BitVec.ofNat 8 (w / 256 ^ n)

/-- The bytes of a table word as the bus carries them, as many as the first byte's format has (R57). -/
def tableBytes (w : Nat) : List Byte :=
  (List.range ((txLength (tableByte w 0)).getD 1)).map (tableByte w)

/-- The item a table word stands for. A row of the wire space has 8 bits, a row of the request space a 3-bit
selector, given as 3 bits or, in whole bytes, as 8: eight bits that are no opcode byte are read as a selector
(log entry 8). -/
def tableItem (nbits w : Nat) : Item :=
  if nbits < 8 then .request (blankRequest (BitVec.ofNat 3 w))
  else if txLength (tableByte w 0) = none ∧ nbits = 8 ∧ w < 8 then .request (blankRequest (BitVec.ofNat 3 w))
  else .wire (tableBytes w) (tableCount (tableByte w 0))

/-- The instruction the decoder reads from a word of spec/opcode_table.json, numbered as the table numbers it. -/
def decodeTableWord (nbits w : Nat) : Option Instr :=
  match decode (tableItem nbits w) with
  | .instr i => some i
  | .reject _ => none

end Sys2Proof
end

