-- ==== Sys2Proof/Machine/State.lean ====
section
/-! DEFINITION. The state of the block and of what its step reads (R10, R14 to R18, R25), the block's own faults
(R130), its responses (R15), and the reasons a step of the model can stop. Plain data throughout. The block has no
general registers (R11), no program counter (R12), no flags (R13), no modes (R139) and no memory (R30). -/

namespace Sys2Proof.Machine

/-- The faults of the block (R130), with the information each records. They are outcomes of an operation, delivered
on the response port (R131): the block goes on after them (R132), so they are no stop of the model (log entry 11). -/
inductive BlockFault where
  /-- Code 1: selector 111; records the selector. -/
  | badOperation (op : Selector)
  /-- Code 2: `SEND_COMMAND` of a byte that is none of the three commands; records the byte. -/
  | badCommand (cmd : Byte)
  /-- Code 3: a register index above 6; records the index. -/
  | badRegisterIndex (r : RegIndex)
  /-- Code 4: a byte count outside 1 to 4; records the count. -/
  | badCount (count : Count)
  /-- Code 5: a field that does not lie in the 32-bit word; records its position in the list. -/
  | fieldOutOfRange (i : Nat)
  /-- Code 6: a value that does not fit its width; records the field's position. -/
  | fieldOverflow (i : Nat)
  /-- Code 7: two fields that share a bit; records their positions, `i < j`. -/
  | fieldOverlap (i j : Nat)
  deriving DecidableEq, Repr

/-- The result of an operation that ends `Ok` (R9, R15). -/
inductive Result where
  /-- `Ok()`: no result. -/
  | none
  /-- A 32-bit word: `PACK`, and a read's value zero-extended to 32 bits. -/
  | word (w : Word)
  /-- A 16-bit value: `READ_REGISTER_UPPER_HALF`. -/
  | half (h : Half)
  deriving DecidableEq, Repr

/-- What stands on the response port (R9, R15). -/
inductive Response where
  | ok (result : Result)
  | fault (f : BlockFault)
  deriving DecidableEq, Repr

/-- The bus port's chip select (R50): asserted while a frame is open. -/
inductive ChipSelect where
  | released
  | asserted
  deriving DecidableEq, Repr

/-- The bus port (R16): the chip select, what the block has driven in the frame in progress (the last frame when
none is), and what it has clocked in (DESIGN CHOICE, safe: log entry 5). -/
structure BusPort where
  chipSelect : ChipSelect
  driven : List Byte
  sampled : List Byte
  deriving DecidableEq, Repr

/-- One entry of the transaction log (R17): bytes sent, number of bytes clocked in, bytes returned. -/
structure LogEntry where
  tx : List Byte
  k : Nat
  rx : List Byte
  deriving DecidableEq, Repr

/-- The state. -/
structure State where
  /-- `ACC`, the RegisterWord accumulator (R10; log entry 15). -/
  acc : Word
  /-- The request port: an operation is in progress (R14, R25). -/
  busy : Bool
  /-- The request port's far side: what the host does next, oldest first (R14; log entry 2). -/
  pending : List HostEvent
  /-- The response port: the last response, none before the first (R15). -/
  response : Option Response
  /-- The bus port (R16, R25). -/
  bus : BusPort
  /-- The peripheral's next answer bytes, an input of the step (R18, R38; log entry 4). -/
  rxQueue : List Byte
  /-- The model's own counter of free answer bytes drawn (log entry 4). -/
  rxDraws : Nat
  /-- The model's own counter of `RX_FILL` bytes drawn (log entry 5). -/
  fillDraws : Nat
  /-- The transaction log (R17), oldest entry first. -/
  log : List LogEntry
  /-- The sticky record of faults (R131), oldest first (log entry 11). -/
  faults : List BlockFault
  deriving DecidableEq, Repr

/-- The stops of the model that the spec's words 'undefined' ask for (R142, 93_implementation_defined.md U1:
`stuck`; log entry 12). Both are safe: the model stops where a real block might go on. Raised by `step` only. -/
inductive Fault where
  /-- A request is presented while an operation is in progress (R14, U1). Raised by `step`; safe. -/
  | concurrentRequest
  /-- A request is presented while a frame is open on the bus: another user of the bus (R157, U1). Raised by
  `step`; safe. -/
  | busInUse
  deriving DecidableEq, Repr

/-- The refusals of the model. -/
inductive Refusal where
  /-- Raised by `exec`'s arms for an instruction without a meaning; safe. No arm raises it. -/
  | notModelled (mnemonic : String)
  /-- Raised by `step` for bytes that are no frame of this block (R61): the block never produces them, and what the
  peripheral does with them is not in the source (N9); safe (log entry 13). -/
  | notAFrame
  deriving DecidableEq, Repr

/-- The block after its reset (R25, R150): `ACC` zero, no operation in progress, the bus idle, the log empty, no
fault recorded; no host event and no answer placed, no response yet (DESIGN CHOICE, unsafe: log entry 7). -/
def State.reset : State where
  acc := 0#32
  busy := false
  pending := []
  response := none
  bus := { chipSelect := .released, driven := [], sampled := [] }
  rxQueue := []
  rxDraws := 0
  fillDraws := 0
  log := []
  faults := []

end Sys2Proof.Machine
end

