-- ==== Sys2Proof/Machine/Flags.lean ====
section
/-! DEFINITION. The block has no flags and no condition codes (R13); what an operation computes beside its result is
the contract check that decides between `Ok` and `Fault`. These checks (R130), their order (R133) and the fault
codes (D24) are here. -/

namespace Sys2Proof.Machine

/-- The code of a fault (R130). -/
def faultCode (f : BlockFault) : Nat :=
  match f with
  | .badOperation _ => 1
  | .badCommand _ => 2
  | .badRegisterIndex _ => 3
  | .badCount _ => 4
  | .fieldOutOfRange _ => 5
  | .fieldOverflow _ => 6
  | .fieldOverlap _ _ => 7

/-- The byte is one of the three single-byte commands (R81). -/
def isCommand (cmd : Byte) : Bool :=
  cmd == Config.opReset || cmd == Config.opInit || cmd == Config.opStartTof

/-- The register index exists (R30, R130). -/
def indexLegal (r : RegIndex) : Bool := decide (r.toNat ≤ Config.regIndexMax)

/-- The field lies in the 32-bit word (R71, D5). -/
def fieldInRange (f : Field) : Bool :=
  decide (1 ≤ f.width) && decide (f.width ≤ 32) && decide (f.offset ≤ 31) && decide (f.offset + f.width ≤ 32)

/-- The value fits the field's width (R71). -/
def fieldFits (f : Field) : Bool := decide (f.value.toNat < 2 ^ f.width)

/-- The two fields share a bit (R71). -/
def fieldsOverlap (f g : Field) : Bool :=
  decide (f.offset < g.offset + g.width) && decide (g.offset < f.offset + f.width)

/-- The first pair of overlapping fields in the order (0,1), (0,2), ..., (1,2), ... (R133), positions counted
from `i`. -/
def firstOverlap (i : Nat) (fields : List Field) : Option (Nat × Nat) :=
  match fields with
  | [] => none
  | f :: rest =>
    match rest.findIdx? (fieldsOverlap f) with
    | some d => some (i, i + 1 + d)
    | none => firstOverlap (i + 1) rest

/-- The three check loops of `PACK`, in the order written, each run completely before the next (R71, R133). -/
def checkFields (fields : List Field) : Option BlockFault :=
  match fields.findIdx? (fun f => !fieldInRange f) with
  | some i => some (.fieldOutOfRange i)
  | none =>
    match fields.findIdx? (fun f => !fieldFits f) with
    | some i => some (.fieldOverflow i)
    | none =>
      match firstOverlap 0 fields with
      | some p => some (.fieldOverlap p.1 p.2)
      | none => none

end Sys2Proof.Machine
end

