-- ==== Sys2Proof/Machine/Operands.lean ====
section
/-! DEFINITION. Operand assembly (30_encoding.md section 3): the bytes of each wire format (R51 to R55), the value
of a read (R56), and the field list of a configuration (R58, R102, R103). -/

namespace Sys2Proof.Machine

/-- The bytes a register write sends (R52, R54, R55). -/
def writeTx (r : RegIndex) (v : Word) : List Byte := opcodeByte Config.opWriteRegBase r :: wordBytes v

/-- The bytes a register read sends (R53, R54). -/
def readTx (r : RegIndex) : List Byte := [opcodeByte Config.opReadRegBase r]

/-- `be` (R8, R56): big-endian assembly of the received bytes, the first the most significant. -/
def be (rx : List Byte) : Nat := rx.foldl (fun v b => v * 256 + b.toNat) 0

/-- A read's value on the 32-bit response port, zero-extended (R15, R56). -/
def readValue (rx : List Byte) : Word := BitVec.ofNat 32 (be rx)

/-- Bits 31 to 16 of a word (R7, R56). -/
def upperHalf (v : Word) : Half := v.extractLsb' 16 16

/-- A field of register 1 with its value (R58). -/
def fieldAt (p : Config.Place) (v : Word) : Field := { offset := p.offset, width := p.width, value := v }

/-- The seven fields of the configuration word, with the given values of the two variable fields (R78, R100, R102). -/
def configFields (g : Config.Reg1) (hit2 hit1 : Word) : List Field :=
  [fieldAt g.hit2 hit2, fieldAt g.hit1 hit1, fieldAt g.hitin2 g.hitin2Value, fieldAt g.hitin1 g.hitin1Value,
    fieldAt g.selStartFire g.selStartFireValue, fieldAt g.selTsto2 g.selTsto2Value,
    fieldAt g.selTsto1 g.selTsto1Value]

/-- The start-mode list (R102). -/
def startFields (g : Config.Reg1) : List Field := configFields g g.hit2Start g.hit1Start

/-- The width-mode list (R103). -/
def widthFields (g : Config.Reg1) : List Field := configFields g g.hit2Width g.hit1Width

/-- Shift-and-OR of the fields, starting from 0 (R71). -/
def packWord (fields : List Field) : Word :=
  fields.foldl (fun acc f => acc ||| (f.value <<< f.offset)) 0#32

end Sys2Proof.Machine
end

