-- ==== Sys2Proof/Machine/Ops.lean ====
section
/-! DEFINITION. The operations every meaning is made of: performing a frame (R50, R17), answering on the response
port (R15), raising a fault (R131, the block's 'trap entry') and going on after one (R132), and the request port's
taking of a request (R14). There is no register file and no memory, so these are all the state has. -/

namespace Sys2Proof.Machine

/-- Open a frame: assert the chip select (R50). -/
def openFrame (s : State) : State :=
  { s with bus := { chipSelect := .asserted, driven := [], sampled := [] } }

/-- Send bytes, the first first; what the peripheral drives meanwhile is ignored (R50). -/
def sendBytes (tx : List Byte) (s : State) : State :=
  { s with bus := { s.bus with driven := s.bus.driven ++ tx } }

/-- Byte `i` of what the peripheral will answer from this state on (R38): the listed answers, then free values
(log entry 4). -/
def answer (s : State) (i : Nat) : Byte :=
  match s.rxQueue[i]? with
  | some b => b
  | none => Config.peripheralByte (s.rxDraws + (i - s.rxQueue.length))

/-- The bytes of the peripheral's answer to a frame that clocks in `k` bytes (R38). -/
def answers (s : State) (k : Nat) : List Byte := (List.range k).map (answer s)

/-- The bytes the block drives while it clocks in `k` bytes: `RX_FILL`, a draw each (R50; log entry 5). -/
def fillBytes (s : State) (k : Nat) : List Byte :=
  (List.range k).map fun i => Config.rxFill (s.fillDraws + i)

/-- Clock in one byte (R50): the peripheral's next answer is sampled while the block drives `RX_FILL`. -/
def clockInByte (s : State) : State :=
  { s with
    bus := { s.bus with
      driven := s.bus.driven ++ [Config.rxFill s.fillDraws]
      sampled := s.bus.sampled ++ [answer s 0] }
    rxQueue := s.rxQueue.drop 1
    rxDraws := s.rxDraws + (1 - s.rxQueue.length)
    fillDraws := s.fillDraws + 1 }

/-- Clock in `k` bytes, one after the other (R50). -/
def clockIn (k : Nat) (s : State) : State :=
  match k with
  | 0 => s
  | n + 1 => clockIn n (clockInByte s)

/-- Close the frame: release the chip select (R50). -/
def closeFrame (s : State) : State := { s with bus := { s.bus with chipSelect := .released } }

/-- Append the frame just performed to the transaction log (R17). -/
def recordFrame (tx : List Byte) (k : Nat) (s : State) : State :=
  { s with log := s.log ++ [{ tx := tx, k := k, rx := s.bus.sampled }] }

/-- `Frame(tx, k)` (R8, R50): chip select, `tx` out, `k` bytes in, chip select released, one log entry. The bytes
received stand in `bus.sampled`. Nothing on the bus can fail (R16, R88, R138). -/
def performFrame (tx : List Byte) (k : Nat) (s : State) : State :=
  recordFrame tx k (closeFrame (clockIn k (sendBytes tx (openFrame s))))

/-- An operation's outcome: the response stands on the port and the block is ready for the next request (R9, R14,
R15). -/
def respond (r : Response) (s : State) : State := { s with response := some r, busy := false }

/-- `return v` (R8, R9): the outcome `Ok`. -/
def complete (result : Result) (s : State) : State := respond (.ok result) s

/-- Fault delivery, the block's 'trap entry' (R131): no frame, `ACC` unchanged, the response is the fault; the model
keeps a sticky record. There is nothing to return from (R132): the next request is taken as if this one had not been
made. -/
def raise (f : BlockFault) (s : State) : State :=
  respond (.fault f) { s with faults := s.faults ++ [f] }

/-- Taking a request from the port (R14): the operation is in progress and the host's next events are `rest`. -/
def accept (rest : List HostEvent) (s : State) : State := { s with busy := true, pending := rest }

/-- A host wait passes (R62, R164): no effect on the block. -/
def passTime (rest : List HostEvent) (s : State) : State := { s with pending := rest }

/-- Why the block cannot take a request now (R14, R157, U1): an operation is in progress, or a frame is open. -/
def notReady (s : State) : Option Fault :=
  if s.busy = true then some .concurrentRequest
  else if s.bus.chipSelect = .asserted then some .busInUse
  else none

/-- What happens after a taken item turns out to be no instruction (R61): selector 111 is answered with the fault
`BadOperation` (R130); bytes that are no frame of the block are refused. -/
def rejectItem (e : Reject) (s : State) : Host.Outcome State Fault Refusal :=
  match e with
  | .badOperation op => .next (raise (.badOperation op) s)
  | .notAFrame => .refused .notAFrame

/-- The state with an item placed so that the very next step takes it: first among the host's events, the block
ready and the bus idle (log entry 8). -/
def placeItem (item : Item) (s : State) : State :=
  { s with
    pending := .issue item :: s.pending
    busy := false
    bus := { s.bus with chipSelect := .released } }

end Sys2Proof.Machine
end

