-- ==== Sys2Proof/Machine/CommandLayer.lean ====
section
/-! DEFINITION. The Opcode Command Layer (41_command_layer.md): `SEND_COMMAND`, `WRITE_REGISTER`, `READ_BYTES`,
`READ_REGISTER_UPPER_HALF`. Each performs exactly one frame when it ends `Ok`, none when it faults (R80), never
retries, and checks nothing it receives (R88). -/

namespace Sys2Proof.Machine

/-- A single-byte command's frame, format `F-CMD` (R51, R81). -/
def commandFrame (cmd : Byte) (s : State) : State := complete .none (performFrame [cmd] 0 s)

/-- `SEND_COMMAND` (R81). -/
def sendCommand (cmd : Byte) (s : State) : State :=
  if isCommand cmd then commandFrame cmd s else raise (.badCommand cmd) s

/-- A register write's frame, format `F-WR`: `MemWrite(r, 4, v)` (R8, R52, R85). -/
def writeFrame (r : RegIndex) (v : Word) (s : State) : State := complete .none (performFrame (writeTx r v) 0 s)

/-- `WRITE_REGISTER` (R85). -/
def writeRegister (r : RegIndex) (v : Word) (s : State) : State :=
  if indexLegal r then writeFrame r v s else raise (.badRegisterIndex r) s

/-- A register read's frame, format `F-RD`: `MemRead(r, n)` (R8, R53, R86). The bytes received stand in
`bus.sampled`. -/
def readFrame (r : RegIndex) (k : Nat) (s : State) : State := performFrame (readTx r) k s

/-- The counted read behind `READ_BYTES` once the index is known to be legal (R86): the count check, the frame, the
value zero-extended. -/
def readCounted (count : Count) (r : RegIndex) (s : State) : State :=
  if countInRange count then
    complete (.word (readValue (readFrame r count.toNat s).bus.sampled)) (readFrame r count.toNat s)
  else raise (.badCount count) s

/-- `READ_BYTES` (R86): the index is checked before the count (R133). -/
def readBytes (count : Count) (r : RegIndex) (s : State) : State :=
  if indexLegal r then readCounted count r s else raise (.badRegisterIndex r) s

/-- `READ_REGISTER_UPPER_HALF` (R87): four bytes in, bits 31 to 16 of them out. -/
def readUpperHalf (r : RegIndex) (s : State) : State :=
  if indexLegal r then
    complete (.half (upperHalf (readValue (readFrame r Config.upperHalfReadBytes s).bus.sampled)))
      (readFrame r Config.upperHalfReadBytes s)
  else raise (.badRegisterIndex r) s

/-- `SEND_COMMAND` (R81). -/
def execSendCommand (cmd : Byte) (s : State) : Host.Outcome State Fault Refusal := .next (sendCommand cmd s)

/-- `WRITE_REGISTER` (R85). -/
def execWriteRegister (r : RegIndex) (value : Word) (s : State) : Host.Outcome State Fault Refusal :=
  .next (writeRegister r value s)

/-- `READ_BYTES` (R86). -/
def execReadBytes (count : Count) (r : RegIndex) (s : State) : Host.Outcome State Fault Refusal :=
  .next (readBytes count r s)

/-- `READ_REGISTER_UPPER_HALF` (R87). -/
def execReadRegisterUpperHalf (r : RegIndex) (s : State) : Host.Outcome State Fault Refusal :=
  .next (readUpperHalf r s)

end Sys2Proof.Machine
end

