-- ==== Sys2Proof/Machine/FieldEncoder.lean ====
section
/-! DEFINITION. The Register Field Encoder: the operation `PACK` (40_field_encoder.md). -/

namespace Sys2Proof.Machine

/-- `ACC <- 0`, then the shifted fields ORed into it (R10, R71). -/
def loadAcc (fields : List Field) (s : State) : State := { s with acc := packWord fields }

/-- `PACK` (R71): the checks, then the word in `ACC` and on the response port; no frame (R77). -/
def packFields (fields : List Field) (s : State) : State :=
  match checkFields fields with
  | some f => raise f s
  | none => complete (.word (loadAcc fields s).acc) (loadAcc fields s)

/-- `PACK` (R71). -/
def execPack (fields : List Field) (s : State) : Host.Outcome State Fault Refusal := .next (packFields fields s)

end Sys2Proof.Machine
end

