-- ==== Sys2Proof/Machine/AluMode.lean ====
section
/-! DEFINITION. The ALU Mode Configurator (42_alu_mode.md): `CFG_START` and `CFG_WIDTH`. Each builds its word anew
with the Register Field Encoder and writes it to register index 1 (R102, R103, R162). -/

namespace Sys2Proof.Machine

/-- Build the word of a field list in `ACC` and write it to register index 1 (R63, R102). With a well-formed `REG1`
the checks never fail (R101); a list on which they fail faults as `PACK` does. -/
def configure (fields : List Field) (s : State) : State :=
  match checkFields fields with
  | some f => raise f s
  | none => writeRegister Config.aluCfgReg (loadAcc fields s).acc (loadAcc fields s)

/-- `CFG_START` (R102). -/
def execCfgStart (s : State) : Host.Outcome State Fault Refusal := .next (configure (startFields Config.reg1) s)

/-- `CFG_WIDTH` (R103). -/
def execCfgWidth (s : State) : Host.Outcome State Fault Refusal := .next (configure (widthFields Config.reg1) s)

end Sys2Proof.Machine
end

