-- ==== Sys2Proof/Machine/WireCommands.lean ====
section
/-! DEFINITION. The seventeen wire commands (44_wire_commands.md), one meaning each: the frame of its rule and the
outcome of the operation that produces it (R63, R170 to R186; log entry 1). A wire read's `k` is 1 to 4 (R53); with
another `k` there is no such frame, and the meaning is that of `READ_BYTES` with that count, the fault `BadCount`
(log entry 9). -/

namespace Sys2Proof.Machine

/-- `START_TOF` (R172). -/
def execStartTof (s : State) : Host.Outcome State Fault Refusal := .next (commandFrame Config.opStartTof s)

/-- `RESET` (R170): it resets the peripheral, not the block (R151). -/
def execReset (s : State) : Host.Outcome State Fault Refusal := .next (commandFrame Config.opReset s)

/-- `INIT` (R171). -/
def execInit (s : State) : Host.Outcome State Fault Refusal := .next (commandFrame Config.opInit s)

/-- `WRITE_REG0` (R173). -/
def execWriteReg0 (value : Word) (s : State) : Host.Outcome State Fault Refusal := .next (writeFrame 0#3 value s)

/-- `WRITE_REG1` (R174). -/
def execWriteReg1 (value : Word) (s : State) : Host.Outcome State Fault Refusal := .next (writeFrame 1#3 value s)

/-- `WRITE_REG2` (R175). -/
def execWriteReg2 (value : Word) (s : State) : Host.Outcome State Fault Refusal := .next (writeFrame 2#3 value s)

/-- `WRITE_REG3` (R176). -/
def execWriteReg3 (value : Word) (s : State) : Host.Outcome State Fault Refusal := .next (writeFrame 3#3 value s)

/-- `WRITE_REG4` (R177). -/
def execWriteReg4 (value : Word) (s : State) : Host.Outcome State Fault Refusal := .next (writeFrame 4#3 value s)

/-- `WRITE_REG5` (R178). -/
def execWriteReg5 (value : Word) (s : State) : Host.Outcome State Fault Refusal := .next (writeFrame 5#3 value s)

/-- `WRITE_REG6` (R179). -/
def execWriteReg6 (value : Word) (s : State) : Host.Outcome State Fault Refusal := .next (writeFrame 6#3 value s)

/-- `READ_REG0` (R180). -/
def execReadReg0 (k : Count) (s : State) : Host.Outcome State Fault Refusal := .next (readCounted k 0#3 s)

/-- `READ_REG1` (R181). -/
def execReadReg1 (k : Count) (s : State) : Host.Outcome State Fault Refusal := .next (readCounted k 1#3 s)

/-- `READ_REG2` (R182). -/
def execReadReg2 (k : Count) (s : State) : Host.Outcome State Fault Refusal := .next (readCounted k 2#3 s)

/-- `READ_REG3` (R183). -/
def execReadReg3 (k : Count) (s : State) : Host.Outcome State Fault Refusal := .next (readCounted k 3#3 s)

/-- `READ_REG4` (R184). -/
def execReadReg4 (k : Count) (s : State) : Host.Outcome State Fault Refusal := .next (readCounted k 4#3 s)

/-- `READ_REG5` (R185). -/
def execReadReg5 (k : Count) (s : State) : Host.Outcome State Fault Refusal := .next (readCounted k 5#3 s)

/-- `READ_REG6` (R186). -/
def execReadReg6 (k : Count) (s : State) : Host.Outcome State Fault Refusal := .next (readCounted k 6#3 s)

end Sys2Proof.Machine
end

