-- ==== Sys2Proof/Machine/Dispatch.lean ====
section
/-! DEFINITION. One arm for each instruction, in the order of spec/opcode_table.json. -/

namespace Sys2Proof.Machine

def exec (i : Instr) (s : State) : Host.Outcome State Fault Refusal :=
  match i with
  | .startTof => Sys2Proof.Machine.execStartTof s
  | .reset => Sys2Proof.Machine.execReset s
  | .init => Sys2Proof.Machine.execInit s
  | .writeReg0 value => Sys2Proof.Machine.execWriteReg0 value s
  | .writeReg1 value => Sys2Proof.Machine.execWriteReg1 value s
  | .writeReg2 value => Sys2Proof.Machine.execWriteReg2 value s
  | .writeReg3 value => Sys2Proof.Machine.execWriteReg3 value s
  | .writeReg4 value => Sys2Proof.Machine.execWriteReg4 value s
  | .writeReg5 value => Sys2Proof.Machine.execWriteReg5 value s
  | .writeReg6 value => Sys2Proof.Machine.execWriteReg6 value s
  | .readReg0 k => Sys2Proof.Machine.execReadReg0 k s
  | .readReg1 k => Sys2Proof.Machine.execReadReg1 k s
  | .readReg2 k => Sys2Proof.Machine.execReadReg2 k s
  | .readReg3 k => Sys2Proof.Machine.execReadReg3 k s
  | .readReg4 k => Sys2Proof.Machine.execReadReg4 k s
  | .readReg5 k => Sys2Proof.Machine.execReadReg5 k s
  | .readReg6 k => Sys2Proof.Machine.execReadReg6 k s
  | .pack fields => Sys2Proof.Machine.execPack fields s
  | .sendCommand cmd => Sys2Proof.Machine.execSendCommand cmd s
  | .writeRegister r value => Sys2Proof.Machine.execWriteRegister r value s
  | .readBytes count r => Sys2Proof.Machine.execReadBytes count r s
  | .readRegisterUpperHalf r => Sys2Proof.Machine.execReadRegisterUpperHalf r s
  | .cfgStart => Sys2Proof.Machine.execCfgStart s
  | .cfgWidth => Sys2Proof.Machine.execCfgWidth s

end Sys2Proof.Machine
end

