-- ==== Sys2Proof/Machine/Fetch.lean ====
section
/-! DEFINITION. How the block comes by its next instruction (R12, R14): it has no program counter and fetches
nothing from a memory (R41); it takes what the host presents, when it is ready. -/

namespace Sys2Proof.Machine

/-- Perform what a taken item stands for, to completion (R12, R39). -/
def runItem (item : Item) (s : State) : Host.Outcome State Fault Refusal :=
  match decode item with
  | .instr i => exec i s
  | .reject e => rejectItem e s

/-- An item is presented: a ready block takes it; a block that is not ready gives it no step (R14, U1). -/
def presentItem (item : Item) (rest : List HostEvent) (s : State) : Host.Outcome State Fault Refusal :=
  match notReady s with
  | some f => .fault f
  | none => runItem item (accept rest s)

/-- The host's next event happens (R14, R62). -/
def runEvent (e : HostEvent) (rest : List HostEvent) (s : State) : Host.Outcome State Fault Refusal :=
  match e with
  | .issue item => presentItem item rest s
  | .delayMs _ => .next (passTime rest s)
  | .delayUs _ => .next (passTime rest s)

/-- The host has nothing to do: the block waits, and nothing changes (R14; log entry 8). -/
def stayIdle (s : State) : Host.Outcome State Fault Refusal := .next s

end Sys2Proof.Machine
end

