-- ==== Sys2Proof/Machine/Step.lean ====
section
/-! DEFINITION. One step: the host's next event. An item presented to a ready block is taken, decoded and performed
to completion (R12, R14, R39); a wait has no effect (R164); with nothing presented the block stays as it is. -/

namespace Sys2Proof.Machine

/-- One step of the machine. -/
def step (s : State) : Host.Outcome State Fault Refusal :=
  match s.pending with
  | [] => stayIdle s
  | e :: rest => runEvent e rest s

/-- `s` with the instruction of a table word placed where the next step takes it (log entry 8). -/
def State.withFetchWord (s : State) (nbits w : Nat) : State := placeItem (tableItem nbits w) s

end Sys2Proof.Machine
end

