-- ==== Sys2Proof/Machine/HostProtocol.lean ====
section
/-! DEFINITION. The host side (43_host_sequences.md, 70_reset_and_hazards.md): initialisation, self-test, status
check and measurement cycle as sequences of block operations, and the order the host must respect. It is outside
the block (R5, R110), so nothing here is read by `step`; its data (R24) are no fields of State (log entry 10). -/

namespace Sys2Proof.Machine

/-- The host's MeasurementPoint (R24): no validity bit, the sentinel is ambiguous (R123). -/
structure MeasurementPoint where
  startValue : Half
  widthValue : Half
  deriving DecidableEq, Repr

/-- The words of the static configuration, host parameters (R111). -/
structure StaticWords where
  static0 : Word
  static2 : Word
  static3 : Word
  static5 : Word
  static6 : Word
  deriving DecidableEq, Repr

/-- The states of the Measurement Sequencer (R115). -/
inductive Phase where
  | idle
  | startConfigured
  | triggered
  | startRead
  | widthConfigured
  | widthRead
  | done
  deriving DecidableEq, Repr

/-- The Measurement Sequencer: its state and what it has read (R115, R121). -/
structure Sequencer where
  phase : Phase
  startValue : Half
  widthValue : Half
  point : Option MeasurementPoint
  deriving DecidableEq, Repr

/-- A new cycle always starts fresh from `Idle` (R122). The two values are overwritten before they are used. -/
def freshSequencer : Sequencer := { phase := .idle, startValue := 0#16, widthValue := 0#16, point := none }

/-- The reserved value for 'timed out / invalid' (R123). -/
def sentinel : Half := 0xFFFF#16

/-- The Status/Timeout Checker: bit 9 of the status register (R113). -/
def statusTimeout (status : Word) : Bool := status.getLsbD 9

/-- The point a cycle emits (R121). -/
def measurementPoint (start width : Half) (status : Word) : MeasurementPoint :=
  if statusTimeout status then { startValue := sentinel, widthValue := sentinel }
  else { startValue := start, widthValue := width }

/-- The byte the self-test expects (R114). -/
def selfTestExpected : Word := 0x55#32

/-- The DeviceStateMask after the self-test has read `b` (R114): a mismatch ORs the failure bit in, once; the flag
is never cleared. -/
def selfTestMask (mask : Nat) (b : Word) : Nat :=
  if b = selfTestExpected then mask else mask ||| 2 ^ Config.initFailureBit

/-- The host requests an operation. -/
def request (i : Instr) : HostEvent := .issue (encode i)

/-- The five static writes, order 0, 2, 3, 5, 6 (R111, D28). -/
def staticEvents (w : StaticWords) : List HostEvent :=
  [request (.writeRegister 0#3 w.static0), request (.writeRegister 2#3 w.static2),
    request (.writeRegister 3#3 w.static3), request (.writeRegister 5#3 w.static5),
    request (.writeRegister 6#3 w.static6)]

/-- The self-test's one operation (R114). -/
def selfTestEvents : List HostEvent := [request (.readBytes 1#3 5#3)]

/-- What the boot order does before the self-test (R112, R153): reset, 100 ms, static configuration. -/
def preparationEvents (w : StaticWords) : List HostEvent :=
  request (.sendCommand Config.opReset) :: .delayMs Config.tResetMs :: staticEvents w

/-- Everything the boot order issues before the first cycle (R153): the self-test comes last and once. -/
def bootEvents (w : StaticWords) : List HostEvent := preparationEvents w ++ selfTestEvents

/-- What the sequencer issues on leaving a state (R115 to R121). -/
def phaseEvents (p : Phase) : List HostEvent :=
  match p with
  | .idle => [request .cfgStart]
  | .startConfigured => [request (.sendCommand Config.opInit), request (.sendCommand Config.opStartTof)]
  | .triggered => [request (.readRegisterUpperHalf 0#3)]
  | .startRead => [request .cfgWidth, .delayUs Config.tWidthUs]
  | .widthConfigured => [request (.readRegisterUpperHalf 1#3)]
  | .widthRead => [request (.readBytes 2#3 4#3)]
  | .done => []

/-- The states of one cycle that are left, in order (R115). -/
def cyclePhases : List Phase :=
  [.idle, .startConfigured, .triggered, .startRead, .widthConfigured, .widthRead]

/-- Everything one measurement cycle issues (R115). -/
def cycleEvents : List HostEvent := cyclePhases.flatMap phaseEvents

/-- The host performs one event against the block and waits for its end (R39): the machine's step with this event
next. -/
def hostDoes (e : HostEvent) (s : State) : Option State :=
  match step { s with pending := [e] } with
  | .next t => some t
  | .fault _ => none
  | .refused _ => none

/-- The host performs events in order. -/
def hostDoesAll (es : List HostEvent) (s : State) : Option State :=
  match es with
  | [] => some s
  | e :: rest =>
    match hostDoes e s with
    | some t => hostDoesAll rest t
    | none => none

/-- The 16-bit value on the response port. -/
def readHalf (s : State) : Option Half :=
  match s.response with
  | some (.ok (.half h)) => some h
  | _ => none

/-- The word on the response port. -/
def readWord (s : State) : Option Word :=
  match s.response with
  | some (.ok (.word w)) => some w
  | _ => none

/-- What the sequencer does with the response when it has left a state (R116 to R121); no transition leaves `Done`
(R122). -/
def sequencerTakes (q : Sequencer) (s : State) : Option Sequencer :=
  match q.phase with
  | .idle => some { q with phase := .startConfigured }
  | .startConfigured => some { q with phase := .triggered }
  | .triggered => (readHalf s).map fun h => { q with phase := .startRead, startValue := h }
  | .startRead => some { q with phase := .widthConfigured }
  | .widthConfigured => (readHalf s).map fun h => { q with phase := .widthRead, widthValue := h }
  | .widthRead =>
    (readWord s).map fun w => { q with phase := .done, point := some (measurementPoint q.startValue q.widthValue w) }
  | .done => none

/-- One transition of the sequencer against the block (R115). -/
def sequencerStep (q : Sequencer) (s : State) : Option (Sequencer × State) :=
  match hostDoesAll (phaseEvents q.phase) s with
  | some t => (sequencerTakes q t).map fun q' => (q', t)
  | none => none

/-- `n` transitions of the sequencer. -/
def sequencerRun (n : Nat) (q : Sequencer) (s : State) : Option (Sequencer × State) :=
  match n with
  | 0 => some (q, s)
  | m + 1 =>
    match sequencerStep q s with
    | some (q', t) => sequencerRun m q' t
    | none => none

/-- One whole measurement cycle against the block: the six transitions from `Idle` to `Done` (R115). -/
def measurementCycle (s : State) : Option (Sequencer × State) := sequencerRun 6 freshSequencer s

/-- The Self-Test run against the block (R114): it reads one byte of register 5 and takes `b` from the response; the
DeviceStateMask after it, and the block. -/
def selfTest (mask : Nat) (s : State) : Option (Nat × State) :=
  match hostDoesAll selfTestEvents s with
  | some t => (readWord t).map fun b => (selfTestMask mask b, t)
  | none => none

/-- The host's own data (R24): the shared DeviceStateMask and the points its cycles have emitted. -/
structure HostData where
  deviceStateMask : Nat
  points : List MeasurementPoint
  deriving DecidableEq, Repr

/-- The boot order run against the block (R153, R154): the self-test is the one writer of the mask. -/
def boot (w : StaticWords) (h : HostData) (s : State) : Option (HostData × State) :=
  match hostDoesAll (preparationEvents w) s with
  | some t => (selfTest h.deviceStateMask t).map fun r => ({ h with deviceStateMask := r.1 }, r.2)
  | none => none

/-- One measurement cycle of the host (R115, R121): its point is emitted; the mask stays, whatever it holds (R154). -/
def hostCycle (h : HostData) (s : State) : Option (HostData × State) :=
  match measurementCycle s with
  | some (q, t) => q.point.map fun p => ({ h with points := h.points ++ [p] }, t)
  | none => none

/-- `n` measurement cycles, one at a time (R153 step 5, R157). -/
def hostCycles (n : Nat) (h : HostData) (s : State) : Option (HostData × State) :=
  match n with
  | 0 => some (h, s)
  | m + 1 =>
    match hostCycle h s with
    | some (h', t) => hostCycles m h' t
    | none => none

/-- A run of the host: the boot order once, then `n` measurement cycles (R153). The mask the host starts from is its
collaborator's (R24). -/
def hostRun (w : StaticWords) (n mask : Nat) (s : State) : Option (HostData × State) :=
  match boot w { deviceStateMask := mask, points := [] } s with
  | some (h, t) => hostCycles n h t
  | none => none

/-- What the protocol asks one frame to be. -/
inductive ExpectedFrame where
  /-- Exactly these bytes, nothing clocked in. -/
  | sent (tx : List Byte)
  /-- A write of this register with a word of the host's choosing (the static words, R111). -/
  | staticWrite (r : RegIndex)
  /-- A read of this register, `k` bytes clocked in. -/
  | read (r : RegIndex) (k : Nat)
  deriving DecidableEq, Repr

/-- The log entry is the frame the protocol asks for. -/
def ExpectedFrame.accepts (f : ExpectedFrame) (e : LogEntry) : Bool :=
  match f with
  | .sent tx => decide (e.tx = tx) && decide (e.k = 0)
  | .staticWrite r =>
    decide (e.tx.head? = some (opcodeByte Config.opWriteRegBase r)) && decide (e.tx.length = 5) && decide (e.k = 0)
  | .read r k => decide (e.tx = readTx r) && decide (e.k = k)

/-- The boot order's frames (R153; the order of the static writes is D28). -/
def bootFrames : List ExpectedFrame :=
  [.sent [Config.opReset], .staticWrite 0#3, .staticWrite 2#3, .staticWrite 3#3, .staticWrite 5#3, .staticWrite 6#3,
    .read 5#3 1]

/-- One cycle's frames (R115, R124): the first write of register 1 carries `W_START`, the second `W_WIDTH`. -/
def cycleFrames (g : Config.Reg1) : List ExpectedFrame :=
  [.sent (writeTx 1#3 (packWord (startFields g))), .sent [Config.opInit], .sent [Config.opStartTof], .read 0#3 4,
    .sent (writeTx 1#3 (packWord (widthFields g))), .read 1#3 4, .read 4#3 2]

/-- What the protocol asks frame `n` since reset to be: the boot order, then cycles. -/
def protocolFrame (g : Config.Reg1) (n : Nat) : Option ExpectedFrame :=
  if n < bootFrames.length then bootFrames[n]?
  else (cycleFrames g)[(n - bootFrames.length) % (cycleFrames g).length]?

/-- Frame `n` since reset, the entry `e`, is the one the protocol asks for. -/
def frameKeepsProtocol (g : Config.Reg1) (e : LogEntry) (n : Nat) : Bool :=
  (protocolFrame g n).any fun f => f.accepts e

/-- The log is that of a host that keeps the boot order (R153, R154) and whose every cycle has `INIT` directly before
`START_TOF` (R155), no second trigger before its width read (R158), and both register-1 writes, the start-mode word
and then the width-mode word, each before its read (R160). A host that breaks the order is refused by this check, not
by the block (U9). -/
def keepsProtocol (g : Config.Reg1) (log : List LogEntry) : Bool :=
  log.zipIdx.all fun p => frameKeepsProtocol g p.1 p.2

/-- What a host may take as written to a register index after one more frame, if it took `known` before: the word of
a write to that index; nothing after a `RESET`, since what that command does to a register is open and the host must
assume that what was written before it is lost (R152, N15); otherwise `known`. DESIGN CHOICE (log entry 16). -/
def noteFrame (r : RegIndex) (known : Option Word) (e : LogEntry) : Option Word :=
  match e.tx with
  | [b] => if b = Config.opReset then none else known
  | [b, b3, b2, b1, b0] => if b = opcodeByte Config.opWriteRegBase r then some (wordOfBytes b3 b2 b1 b0) else known
  | _ => known

/-- The last word written to a register index since the last `RESET`, read off the log (R106); none where no write
followed it. For index 1 it is the configuration the host may take to be in force. What the peripheral holds is open
(R18, R152), so this is the host's bookkeeping and no read answers from it. DESIGN CHOICE (log entry 16). -/
def lastWritten (r : RegIndex) (log : List LogEntry) : Option Word := log.foldl (noteFrame r) none

end Sys2Proof.Machine
end

