-- ==== Sys2Proof/Safety.lean ====
section
/-! DEFINITION. What counts as a safe run, and the invariant of the machine: between operations the ports are idle
(R16, R25, R80), the log holds frames of this block only (R50 to R53, R61, R64), and the record of faults agrees
with R130. -/

namespace Sys2Proof.Machine

/-- No fault recorded: the premise under which R131 asks a run's claims to be stated. -/
def NoFaultRecorded (s : State) : Prop := s.faults = []

/-- The block can take a request: no operation in progress and the bus idle (R14, R16, R25). -/
def PortsIdle (s : State) : Prop := s.busy = false ∧ s.bus.chipSelect = .released

/-- The verdict on bytes and a count: they are a frame of this block (R61). -/
def isFrame (tx : List Byte) (k : Nat) : Prop := ∃ i, decode (.wire tx k) = .instr i

/-- An entry of the log is a frame of this block that has been answered with exactly `k` bytes (R16, R50, R61). -/
def EntryLawful (e : LogEntry) : Prop := isFrame e.tx e.k ∧ e.rx.length = e.k

/-- The information a fault records violates the contract its code names (R130). -/
def FaultLawful (f : BlockFault) : Prop :=
  match f with
  | .badOperation op => op = 7#3
  | .badCommand cmd => cmd ≠ 0x50#8 ∧ cmd ≠ 0x70#8 ∧ cmd ≠ 0x01#8
  | .badRegisterIndex r => r = 7#3
  | .badCount count => count.toNat < 1 ∨ 4 < count.toNat
  | .fieldOutOfRange _ => True
  | .fieldOverflow _ => True
  | .fieldOverlap i j => i < j

/-- The bus lines show the last frame of the log: its bytes out, then one fill byte for each byte in (R50). -/
def LinesShowLastFrame (s : State) : Prop :=
  ∀ e, s.log.getLast? = some e →
    s.bus.sampled = e.rx ∧ s.bus.driven.take e.tx.length = e.tx ∧ s.bus.driven.length = e.tx.length + e.k

/-- A fault on the response port is the last of the record (R131). -/
def ResponseRecorded (s : State) : Prop :=
  ∀ f, s.response = some (.fault f) → s.faults.getLast? = some f

/-- R71's geometry condition: the field lies in the 32-bit word. -/
def FieldInWord (f : Field) : Prop := 1 ≤ f.width ∧ f.width ≤ 32 ∧ f.offset ≤ 31 ∧ f.offset + f.width ≤ 32

/-- R71's value condition. -/
def ValueFits (f : Field) : Prop := f.value.toNat < 2 ^ f.width

/-- R71's overlap condition: the two fields share a bit. -/
def ShareBit (f g : Field) : Prop := f.offset < g.offset + g.width ∧ g.offset < f.offset + f.width

/-- A list of fields that meets the contract of `PACK` (R59, R71). -/
def LegalFields (fields : List Field) : Prop :=
  (∀ f ∈ fields, FieldInWord f) ∧ (∀ f ∈ fields, ValueFits f) ∧ fields.Pairwise fun f g => ¬ ShareBit f g

/-- A word holds a field's value at the field's place: shifted right by the offset and masked to the width (R72). -/
def HoldsField (w : Word) (f : Field) : Prop := (w.toNat >>> f.offset) &&& (2 ^ f.width - 1) = f.value.toNat

/-- A bit position lies in a field (R73). -/
def BitInField (b : Nat) (f : Field) : Prop := f.offset ≤ b ∧ b < f.offset + f.width

/-- The bytes R85 sends. -/
def writeBytesOf (base : Byte) (r : RegIndex) (v : Word) : List Byte :=
  [base + r.zeroExtend 8, v.extractLsb' 24 8, v.extractLsb' 16 8, v.extractLsb' 8 8, v.extractLsb' 0 8]

/-- The state R50 leaves after a frame of one byte out and `k` in: the peripheral's next `k` answers are used up and
stand on the lines and in the log. -/
def afterRead (op : Byte) (k : Nat) (result : Result) (s : State) : State :=
  { s with
    busy := false
    response := some (.ok result)
    bus := { chipSelect := .released, driven := op :: fillBytes s k, sampled := (List.range k).map (answer s) }
    rxQueue := s.rxQueue.drop k
    rxDraws := s.rxDraws + (k - s.rxQueue.length)
    fillDraws := s.fillDraws + k
    log := s.log ++ [{ tx := [op], k := k, rx := (List.range k).map (answer s) }] }

/-- The value of R56: the sum of the answer bytes, the first the most significant. -/
def answerValue (k : Nat) (s : State) : Nat :=
  ((List.range k).map fun i => (answer s i).toNat * 2 ^ (8 * (k - 1 - i))).sum

/-- The list of R102 and R103, with the values of its first two triples. -/
def aluList (g : Config.Reg1) (hit2 hit1 : Word) : List Field :=
  [⟨g.hit2.offset, g.hit2.width, hit2⟩,
   ⟨g.hit1.offset, g.hit1.width, hit1⟩,
   ⟨g.hitin2.offset, g.hitin2.width, g.hitin2Value⟩,
   ⟨g.hitin1.offset, g.hitin1.width, g.hitin1Value⟩,
   ⟨g.selStartFire.offset, g.selStartFire.width, g.selStartFireValue⟩,
   ⟨g.selTsto2.offset, g.selTsto2.width, g.selTsto2Value⟩,
   ⟨g.selTsto1.offset, g.selTsto1.width, g.selTsto1Value⟩]

/-- What R102 and R103 do with the word `w` of their list: it stands in `ACC` and is written to register index 1. -/
def afterConfigure (w : Word) (s : State) : State :=
  { s with
    acc := w
    busy := false
    response := some (.ok .none)
    bus := { chipSelect := .released, driven := writeBytesOf 0x80#8 1#3 w, sampled := [] }
    log := s.log ++ [{ tx := writeBytesOf 0x80#8 1#3 w, k := 0, rx := [] }] }

/-- The invariant. -/
structure Inv (s : State) : Prop where
  idle : PortsIdle s
  frames : ∀ e ∈ s.log, EntryLawful e
  faults : ∀ f ∈ s.faults, FaultLawful f
  lines : LinesShowLastFrame s
  recorded : ResponseRecorded s

end Sys2Proof.Machine
end

