-- ==== Sys2Proof/Certificates/Slice0/Obligations.lean ====
section
/-! DEFINITION. The statements for the provers. Next states are written out as the state before with the fields that
change, so a statement of a result is also its frame: every field not named is as before. -/

open Sys2Proof Sys2Proof.Machine

-- ---------------------------------------------------------------- encodings

/-- R51 to R53, R60: decoding the encoding of a well-formed instruction gives it back, with every operand. -/
def Obligations.DecodeOfEncodeIsIdentity : Prop :=
  ∀ i : Instr, i.wellFormed = true → decode (encode i) = .instr i

/-- R51 to R53, R57: bytes that decode to an instruction are exactly that instruction's frame: no byte of it and no
bit of a byte is ignored, and the instruction is well-formed. -/
def Obligations.WireDecodingDropsNoBit : Prop :=
  ∀ (tx : List Byte) (k : Nat) (i : Instr),
    decode (.wire tx k) = .instr i → i.wellFormed = true ∧ encode i = .wire tx k

/-- R61, R64: the bytes that can begin a frame of this block are the seventeen of the opcode map. -/
def Obligations.OpcodeMapHasSeventeenBytes : Prop :=
  ∀ b : Byte, (∃ rest k, isFrame (b :: rest) k) ↔
    b = 0x01#8 ∨ b = 0x50#8 ∨ b = 0x70#8 ∨
      b = 0x80#8 ∨ b = 0x81#8 ∨ b = 0x82#8 ∨ b = 0x83#8 ∨ b = 0x84#8 ∨ b = 0x85#8 ∨ b = 0x86#8 ∨
      b = 0xB0#8 ∨ b = 0xB1#8 ∨ b = 0xB2#8 ∨ b = 0xB3#8 ∨ b = 0xB4#8 ∨ b = 0xB5#8 ∨ b = 0xB6#8

/-- Words written out from the spec's encodings, one of each family. -/
def Obligations.WordsOfTheSpecDecode : Prop :=
  decode (.wire [0b01010000#8] 0) = .instr .reset ∧
  decode (.wire [0b10000001#8, 0x12#8, 0x34#8, 0x56#8, 0x78#8] 0) = .instr (.writeReg1 0x12345678#32) ∧
  decode (.wire [0b10110100#8] 2) = .instr (.readReg4 2#3) ∧
  decode (.wire [0x87#8, 0#8, 0#8, 0#8, 0#8] 0) = .reject .notAFrame ∧
  decode (.request { op := 0b101#3, fields := [⟨1, 1, 1#32⟩], cmd := 9#8, r := 3#3, value := 5#32, count := 7#3 }) =
    .instr .cfgStart

/-- R60: the selector names the operation, and only the operand fields listed for it are read. -/
def Obligations.SelectorNamesTheOperation : Prop :=
  ∀ q : Request,
    (q.op = 0b000#3 → decode (.request q) = .instr (.pack q.fields)) ∧
    (q.op = 0b001#3 → decode (.request q) = .instr (.sendCommand q.cmd)) ∧
    (q.op = 0b010#3 → decode (.request q) = .instr (.writeRegister q.r q.value)) ∧
    (q.op = 0b011#3 → decode (.request q) = .instr (.readBytes q.count q.r)) ∧
    (q.op = 0b100#3 → decode (.request q) = .instr (.readRegisterUpperHalf q.r)) ∧
    (q.op = 0b101#3 → decode (.request q) = .instr .cfgStart) ∧
    (q.op = 0b110#3 → decode (.request q) = .instr .cfgWidth) ∧
    (q.op = 0b111#3 → decode (.request q) = .reject (.badOperation 7#3))

-- ---------------------------------------------------------------- the step

/-- A ready block whose host presents an item that decodes to `i` runs `i`: the step is `exec i` in the state with
the item taken and the operation in progress. -/
def Obligations.StepRunsTheDecodedInstruction : Prop :=
  ∀ (s : State) (item : Item) (rest : List HostEvent) (i : Instr),
    s.pending = .issue item :: rest → PortsIdle s → decode item = .instr i →
      step s = exec i { s with busy := true, pending := rest }

/-- R130, R131, R133: selector 111 is answered with `BadOperation`, whatever the operands, and nothing else
happens. -/
def Obligations.StepAnswersReservedSelector : Prop :=
  ∀ (s : State) (q : Request) (rest : List HostEvent),
    s.pending = .issue (.request q) :: rest → PortsIdle s → q.op = 7#3 →
      step s = .next { s with
        busy := false
        pending := rest
        response := some (.fault (.badOperation 7#3))
        faults := s.faults ++ [.badOperation 7#3] }

/-- R164 and log entry 8: a wait of the host changes nothing but the host's own place, and a block with nothing
presented stays as it is (the model's choice, log entry 8). -/
def Obligations.WaitsAndIdlenessChangeNothing : Prop :=
  ∀ (s : State) (n : Nat) (rest : List HostEvent),
    (s.pending = .delayMs n :: rest → step s = .next { s with pending := rest }) ∧
    (s.pending = .delayUs n :: rest → step s = .next { s with pending := rest }) ∧
    (s.pending = [] → step s = .next s)

/-- R14, 93_implementation_defined.md U1: a request during an operation, or while a frame is open, has no step. -/
def Obligations.ConcurrentRequestHasNoStep : Prop :=
  ∀ (s : State) (item : Item) (rest : List HostEvent), s.pending = .issue item :: rest →
    (s.busy = true → step s = .fault .concurrentRequest) ∧
    (s.busy = false ∧ s.bus.chipSelect = .asserted → step s = .fault .busInUse)

/-- R61: a ready block presented with bytes that are no frame of this block is refused that by name. -/
def Obligations.ForeignBytesAreRefused : Prop :=
  ∀ (s : State) (tx : List Byte) (k : Nat) (rest : List HostEvent),
    s.pending = .issue (.wire tx k) :: rest → PortsIdle s → ¬ isFrame tx k → step s = .refused .notAFrame

-- ---------------------------------------------------------------- the Register Field Encoder

/-- R71: a legal list is packed: the shift-and-OR of its fields is the result and is left in `ACC`; nothing else
changes. -/
def Obligations.PackAnswersTheWord : Prop :=
  ∀ (fields : List Field) (s : State), LegalFields fields →
    exec (.pack fields) s = .next { s with
      acc := fields.foldl (fun acc f => acc ||| (f.value <<< f.offset)) 0#32
      busy := false
      response := some (.ok (.word (fields.foldl (fun acc f => acc ||| (f.value <<< f.offset)) 0#32))) }

/-- R71, R133: if some field does not lie in the word, the fault is `FieldOutOfRange` of the first such field. -/
def Obligations.PackReportsFirstFieldOutOfRange : Prop :=
  ∀ (fields : List Field) (s : State) (i : Nat) (f : Field), fields[i]? = some f → ¬ FieldInWord f →
    (∀ j g, j < i → fields[j]? = some g → FieldInWord g) →
      exec (.pack fields) s = .next { s with
        busy := false
        response := some (.fault (.fieldOutOfRange i))
        faults := s.faults ++ [.fieldOutOfRange i] }

/-- R71, R133: if all fields lie in the word and some value does not fit, the fault is `FieldOverflow` of the first
such field. -/
def Obligations.PackReportsFirstOverflow : Prop :=
  ∀ (fields : List Field) (s : State) (i : Nat) (f : Field), (∀ g ∈ fields, FieldInWord g) →
    fields[i]? = some f → 2 ^ f.width ≤ f.value.toNat →
    (∀ j g, j < i → fields[j]? = some g → g.value.toNat < 2 ^ g.width) →
      exec (.pack fields) s = .next { s with
        busy := false
        response := some (.fault (.fieldOverflow i))
        faults := s.faults ++ [.fieldOverflow i] }

/-- R71, R133: if all fields lie in the word, all values fit and some pair shares a bit, the fault is `FieldOverlap`
of the first such pair in lexicographic order. -/
def Obligations.PackReportsFirstOverlap : Prop :=
  ∀ (fields : List Field) (s : State) (i j : Nat) (f g : Field), (∀ h ∈ fields, FieldInWord h ∧ ValueFits h) →
    i < j → fields[i]? = some f → fields[j]? = some g → ShareBit f g →
    (∀ a b fa fb, a < b → (a < i ∨ (a = i ∧ b < j)) → fields[a]? = some fa → fields[b]? = some fb →
      ¬ ShareBit fa fb) →
      exec (.pack fields) s = .next { s with
        busy := false
        response := some (.fault (.fieldOverlap i j))
        faults := s.faults ++ [.fieldOverlap i j] }

/-- R72: whenever `PACK` answers `Ok(word)`, every field is recovered from the word by shift and mask. -/
def Obligations.PackedFieldIsRecovered : Prop :=
  ∀ (fields : List Field) (s t : State) (w : Word), exec (.pack fields) s = .next t →
    t.response = some (.ok (.word w)) →
      ∀ f ∈ fields, (w.toNat >>> f.offset) &&& (2 ^ f.width - 1) = f.value.toNat

/-- R73: whenever `PACK` answers `Ok(word)`, every bit position that lies in no field is 0. -/
def Obligations.UntouchedBitsAreZero : Prop :=
  ∀ (fields : List Field) (s t : State) (w : Word), exec (.pack fields) s = .next t →
    t.response = some (.ok (.word w)) →
      ∀ b, b ≤ 31 → (∀ f ∈ fields, b < f.offset ∨ f.offset + f.width ≤ b) → w.getLsbD b = false

/-- R74: the laws R72 and R73 fix the word, and the word depends on the set of fields alone. -/
def Obligations.PackedWordIsUnique : Prop :=
  ∀ (fields : List Field) (s t : State) (w : Word), exec (.pack fields) s = .next t →
    t.response = some (.ok (.word w)) →
      (∀ v : Word, (∀ f ∈ fields, HoldsField v f) →
        (∀ b, b ≤ 31 → (∀ f ∈ fields, ¬ BitInField b f) → v.getLsbD b = false) → v = w) ∧
      (∀ (fields' : List Field) (s' t' : State) (w' : Word), (∀ f, f ∈ fields' ↔ f ∈ fields) →
        exec (.pack fields') s' = .next t' → t'.response = some (.ok (.word w')) → w' = w)

/-- R75: for a legal list, any permutation of it is packed to the same word. -/
def Obligations.PackIgnoresTheOrder : Prop :=
  ∀ (fields fields' : List Field) (s : State), LegalFields fields → fields.Perm fields' →
    ∃ t w, exec (.pack fields) s = .next t ∧ exec (.pack fields') s = .next t ∧ t.response = some (.ok (.word w))

/-- R76: the packed word is the sum of the fields' shifted values; no bit is shifted out and nothing wraps. -/
def Obligations.PackedWordIsTheSum : Prop :=
  ∀ (fields : List Field) (s t : State) (w : Word), exec (.pack fields) s = .next t →
    t.response = some (.ok (.word w)) → w.toNat = (fields.map fun f => f.value.toNat * 2 ^ f.offset).sum

/-- R77: `PACK` touches no bus, no log and no peripheral answer, the same list always gives the same outcome, and a
later operation answers and does on the bus what it would without the `PACK`. -/
def Obligations.PackIsPure : Prop :=
  ∀ (fields : List Field) (s s' : State), ∃ t t', exec (.pack fields) s = .next t ∧
    exec (.pack fields) s' = .next t' ∧ t.response = t'.response ∧ t.bus = s.bus ∧ t.log = s.log ∧
    t.rxQueue = s.rxQueue ∧ t.rxDraws = s.rxDraws ∧ t.fillDraws = s.fillDraws ∧ t.pending = s.pending ∧
    ∀ j : Instr, ∃ u v, exec j s = .next u ∧ exec j t = .next v ∧ v.response = u.response ∧ v.bus = u.bus ∧ v.log = u.log

-- ---------------------------------------------------------------- the Opcode Command Layer

/-- R81 (selector 001): each of the three commands is sent as one byte with nothing clocked in; every other byte is `BadCommand`
with no frame. -/
def Obligations.SendCommandEffect : Prop :=
  (∀ q : Request, q.op = 0b001#3 → decode (.request q) = .instr (.sendCommand q.cmd)) ∧
  ∀ (cmd : Byte) (s : State), exec (.sendCommand cmd) s = .next
    (if cmd = 0x50#8 ∨ cmd = 0x70#8 ∨ cmd = 0x01#8 then
      { s with
        busy := false
        response := some (.ok .none)
        bus := { chipSelect := .released, driven := [cmd], sampled := [] }
        log := s.log ++ [{ tx := [cmd], k := 0, rx := [] }] }
    else
      { s with
        busy := false
        response := some (.fault (.badCommand cmd))
        faults := s.faults ++ [.badCommand cmd] })

/-- R85 (selector 010): a legal index is written with one five-byte frame, most significant byte first; index 7 is
`BadRegisterIndex` with no frame. -/
def Obligations.WriteRegisterEffect : Prop :=
  (∀ q : Request, q.op = 0b010#3 → decode (.request q) = .instr (.writeRegister q.r q.value)) ∧
  ∀ (r : RegIndex) (v : Word) (s : State), exec (.writeRegister r v) s = .next
    (if r.toNat ≤ 6 then
      { s with
        busy := false
        response := some (.ok .none)
        bus := { chipSelect := .released, driven := writeBytesOf 0x80#8 r v, sampled := [] }
        log := s.log ++ [{ tx := writeBytesOf 0x80#8 r v, k := 0, rx := [] }] }
    else
      { s with
        busy := false
        response := some (.fault (.badRegisterIndex r))
        faults := s.faults ++ [.badRegisterIndex r] })

/-- R86 (selector 011): the index is checked first, then the count; a legal read is one frame of one byte out and `count` in, and
its value is big-endian and zero-extended. -/
def Obligations.ReadBytesEffect : Prop :=
  (∀ q : Request, q.op = 0b011#3 → decode (.request q) = .instr (.readBytes q.count q.r)) ∧
  ∀ (count : Count) (r : RegIndex) (s : State), exec (.readBytes count r) s = .next
    (if 6 < r.toNat then
      { s with
        busy := false
        response := some (.fault (.badRegisterIndex r))
        faults := s.faults ++ [.badRegisterIndex r] }
    else if count.toNat < 1 ∨ 4 < count.toNat then
      { s with
        busy := false
        response := some (.fault (.badCount count))
        faults := s.faults ++ [.badCount count] }
    else
      afterRead (0xB0#8 + r.zeroExtend 8) count.toNat
        (.word (BitVec.ofNat 32 (answerValue count.toNat s))) s)

/-- R87 (selector 100): four bytes are clocked in and the first two are the result; index 7 is `BadRegisterIndex`. -/
def Obligations.ReadUpperHalfEffect : Prop :=
  (∀ q : Request, q.op = 0b100#3 → decode (.request q) = .instr (.readRegisterUpperHalf q.r)) ∧
  ∀ (r : RegIndex) (s : State), exec (.readRegisterUpperHalf r) s = .next
    (if r.toNat ≤ 6 then
      afterRead (0xB0#8 + r.zeroExtend 8) 4
        (.half (BitVec.ofNat 16 ((answer s 0).toNat * 256 + (answer s 1).toNat))) s
    else
      { s with
        busy := false
        response := some (.fault (.badRegisterIndex r))
        faults := s.faults ++ [.badRegisterIndex r] })

/-- R89 (a): the frame of a write carries the index and all 32 bits of the value. -/
def Obligations.WriteFrameRoundTrips : Prop :=
  ∀ (r : RegIndex) (v : Word) (s : State), r.toNat ≤ 6 →
    ∃ t b3 b2 b1 b0, exec (.writeRegister r v) s = .next t ∧ ∃ op,
      t.log = s.log ++ [{ tx := [op, b3, b2, b1, b0], k := 0, rx := [] }] ∧ op.toNat = 0x80 + r.toNat ∧
      b3.toNat * 2 ^ 24 + b2.toNat * 2 ^ 16 + b1.toNat * 2 ^ 8 + b0.toNat = v.toNat

/-- R56, R89 (b): assembly is the sum of the rule, stays below 2^(8*count), and is injective for a fixed count. -/
def Obligations.ReadAssemblyIsInjective : Prop :=
  ∀ rx rx' : List Byte,
    be rx = (rx.zipIdx.map fun p => p.1.toNat * 2 ^ (8 * (rx.length - 1 - p.2))).sum ∧
    be rx < 2 ^ (8 * rx.length) ∧ (rx.length = rx'.length → be rx = be rx' → rx = rx')

/-- R63, R89 (c): the upper-half read leaves the state `READ_BYTES 4` leaves, with bits 31 to 16 of its value as the
result. -/
def Obligations.UpperHalfIsQuotientOfFourByteRead : Prop :=
  ∀ (r : RegIndex) (s : State), r.toNat ≤ 6 →
    ∃ (t : State) (w : Word) (h : Half), exec (.readBytes 4#3 r) s = .next t ∧ t.response = some (.ok (.word w)) ∧
      exec (.readRegisterUpperHalf r) s = .next { t with response := some (.ok (.half h)) } ∧
      h.toNat = w.toNat / 2 ^ 16

/-- R80, R89 (e): an operation of the command layer or the configurator that ends `Ok` has performed exactly one
frame; one that ends `Fault` has performed none; the bus is idle after it. -/
def Obligations.OneOperationOneFrame : Prop :=
  ∀ (i : Instr) (s : State), (∀ fields, i ≠ .pack fields) → ∃ t r, exec i s = .next t ∧ t.response = some r ∧
    (∀ v, r = .ok v → t.bus.chipSelect = .released ∧ ∃ e, t.log = s.log ++ [e] ∧ isFrame e.tx e.k ∧
      e.rx.length = e.k) ∧
    (∀ f, r = .fault f → t.bus = s.bus ∧ t.log = s.log)

-- ---------------------------------------------------------------- the wire commands

/-- R170, R171, R172: a single-byte command is its one-byte frame; nothing is clocked in and nothing else changes. -/
def Obligations.SingleByteCommandFrames : Prop :=
  ∀ s : State,
    let sent : Byte → State := fun op =>
      { s with
        busy := false
        response := some (.ok .none)
        bus := { chipSelect := .released, driven := [op], sampled := [] }
        log := s.log ++ [{ tx := [op], k := 0, rx := [] }] }
    exec .reset s = .next (sent 0x50#8) ∧ exec .init s = .next (sent 0x70#8) ∧
      exec .startTof s = .next (sent 0x01#8)

/-- R173 to R179: a register write command is its five-byte frame, the value most significant byte first; nothing
else changes. -/
def Obligations.RegisterWriteFrames : Prop :=
  ∀ (v : Word) (s : State),
    let sent : Byte → State := fun op =>
      { s with
        busy := false
        response := some (.ok .none)
        bus :=
          { chipSelect := .released
            driven := [op, v.extractLsb' 24 8, v.extractLsb' 16 8, v.extractLsb' 8 8, v.extractLsb' 0 8]
            sampled := [] }
        log := s.log ++
          [{ tx := [op, v.extractLsb' 24 8, v.extractLsb' 16 8, v.extractLsb' 8 8, v.extractLsb' 0 8]
             k := 0
             rx := [] }] }
    exec (.writeReg0 v) s = .next (sent 0x80#8) ∧ exec (.writeReg1 v) s = .next (sent 0x81#8) ∧
      exec (.writeReg2 v) s = .next (sent 0x82#8) ∧ exec (.writeReg3 v) s = .next (sent 0x83#8) ∧
      exec (.writeReg4 v) s = .next (sent 0x84#8) ∧ exec (.writeReg5 v) s = .next (sent 0x85#8) ∧
      exec (.writeReg6 v) s = .next (sent 0x86#8)

/-- R180 to R186: a register read command is its frame of one byte out and `k` in, with the big-endian value of the
peripheral's answer; nothing else changes. -/
def Obligations.RegisterReadFrames : Prop :=
  ∀ (k : Count) (s : State), 1 ≤ k.toNat → k.toNat ≤ 4 →
    let done : Byte → State := fun op =>
      afterRead op k.toNat (.word (BitVec.ofNat 32 (answerValue k.toNat s))) s
    exec (.readReg0 k) s = .next (done 0xB0#8) ∧ exec (.readReg1 k) s = .next (done 0xB1#8) ∧
      exec (.readReg2 k) s = .next (done 0xB2#8) ∧ exec (.readReg3 k) s = .next (done 0xB3#8) ∧
      exec (.readReg4 k) s = .next (done 0xB4#8) ∧ exec (.readReg5 k) s = .next (done 0xB5#8) ∧
      exec (.readReg6 k) s = .next (done 0xB6#8)

/-- Log entry 9 (the model's choice): a read command with a `k` outside 1 to 4, which no frame has, is answered as
`READ_BYTES` with that count is, by `BadCount` with no frame. -/
def Obligations.ReadCommandOfIllegalCount : Prop :=
  ∀ (k : Count) (s : State), k.toNat < 1 ∨ 4 < k.toNat →
    let faulted : State :=
      { s with
        busy := false
        response := some (.fault (.badCount k))
        faults := s.faults ++ [.badCount k] }
    exec (.readReg0 k) s = .next faulted ∧ exec (.readReg1 k) s = .next faulted ∧
      exec (.readReg2 k) s = .next faulted ∧ exec (.readReg3 k) s = .next faulted ∧
      exec (.readReg4 k) s = .next faulted ∧ exec (.readReg5 k) s = .next faulted ∧
      exec (.readReg6 k) s = .next faulted

/-- R63 and the 'produced by' lines of R170 to R186: a wire command and the operation that produces it have the same
frames, outcome and state. -/
def Obligations.WireCommandsEqualTheirOperations : Prop :=
  ∀ (v : Word) (k : Count) (s : State),
    exec .reset s = exec (.sendCommand 0x50#8) s ∧ exec .init s = exec (.sendCommand 0x70#8) s ∧
    exec .startTof s = exec (.sendCommand 0x01#8) s ∧
    exec (.writeReg0 v) s = exec (.writeRegister 0#3 v) s ∧ exec (.writeReg1 v) s = exec (.writeRegister 1#3 v) s ∧
    exec (.writeReg2 v) s = exec (.writeRegister 2#3 v) s ∧ exec (.writeReg3 v) s = exec (.writeRegister 3#3 v) s ∧
    exec (.writeReg4 v) s = exec (.writeRegister 4#3 v) s ∧ exec (.writeReg5 v) s = exec (.writeRegister 5#3 v) s ∧
    exec (.writeReg6 v) s = exec (.writeRegister 6#3 v) s ∧
    exec (.readReg0 k) s = exec (.readBytes k 0#3) s ∧ exec (.readReg1 k) s = exec (.readBytes k 1#3) s ∧
    exec (.readReg2 k) s = exec (.readBytes k 2#3) s ∧ exec (.readReg3 k) s = exec (.readBytes k 3#3) s ∧
    exec (.readReg4 k) s = exec (.readBytes k 4#3) s ∧ exec (.readReg5 k) s = exec (.readBytes k 5#3) s ∧
    exec (.readReg6 k) s = exec (.readBytes k 6#3) s

-- ---------------------------------------------------------------- the ALU Mode Configurator

/-- R101: a record is well-formed exactly when `PACK` accepts both of its lists and the two modes differ in both
variable fields; so neither configuration can fault. -/
def Obligations.WellFormedReg1IsWhatPackAccepts : Prop :=
  ∀ g : Config.Reg1, g.wellFormed = true ↔
    LegalFields (aluList g g.hit2Start g.hit1Start) ∧
    LegalFields (aluList g g.hit2Width g.hit1Width) ∧
    g.hit1Start ≠ g.hit1Width ∧ g.hit2Start ≠ g.hit2Width

/-- R102 (selector 101): `CFG_START` packs the start-mode list of `REG1` and writes the word to register index 1, in one frame. -/
def Obligations.CfgStartWritesTheStartWord : Prop :=
  (∀ q : Request, q.op = 0b101#3 → decode (.request q) = .instr .cfgStart) ∧
  ∀ s : State, ∃ t w,
    exec (.pack (aluList Config.reg1 Config.reg1.hit2Start Config.reg1.hit1Start)) s = .next t ∧
    t.response = some (.ok (.word w)) ∧ exec .cfgStart s = .next (afterConfigure w s)

/-- R103 (selector 110): `CFG_WIDTH` packs the width-mode list of `REG1` and writes the word to register index 1, in one frame. -/
def Obligations.CfgWidthWritesTheWidthWord : Prop :=
  (∀ q : Request, q.op = 0b110#3 → decode (.request q) = .instr .cfgWidth) ∧
  ∀ s : State, ∃ t w,
    exec (.pack (aluList Config.reg1 Config.reg1.hit2Width Config.reg1.hit1Width)) s = .next t ∧
    t.response = some (.ok (.word w)) ∧ exec .cfgWidth s = .next (afterConfigure w s)

/-- R63: `CFG_START` and `CFG_WIDTH` equal their expansions: `PACK` of the list, then `WRITE_REGISTER 1` of its
word. -/
def Obligations.ConfigurationsEqualTheirExpansions : Prop :=
  ∀ s : State,
    (∃ t w, exec (.pack (startFields Config.reg1)) s = .next t ∧ t.response = some (.ok (.word w)) ∧
      exec .cfgStart s = exec (.writeRegister 1#3 w) t) ∧
    (∃ t w, exec (.pack (widthFields Config.reg1)) s = .next t ∧ t.response = some (.ok (.word w)) ∧
      exec .cfgWidth s = exec (.writeRegister 1#3 w) t)

/-- R104: for every well-formed `REG1` the two words differ in `HIT1` and `HIT2` and nowhere else; the other five
fields read back the same value from both. -/
def Obligations.ModesDifferInHitFieldsOnly : Prop :=
  ∀ (g : Config.Reg1) (s tStart tWidth : State) (wStart wWidth : Word), g.wellFormed = true →
    exec (.pack (aluList g g.hit2Start g.hit1Start)) s = .next tStart →
    tStart.response = some (.ok (.word wStart)) →
    exec (.pack (aluList g g.hit2Width g.hit1Width)) s = .next tWidth →
    tWidth.response = some (.ok (.word wWidth)) →
      (∀ b, ¬ (g.hit1.offset ≤ b ∧ b < g.hit1.offset + g.hit1.width) →
        ¬ (g.hit2.offset ≤ b ∧ b < g.hit2.offset + g.hit2.width) → wStart.getLsbD b = wWidth.getLsbD b) ∧
      HoldsField wStart ⟨g.hit1.offset, g.hit1.width, g.hit1Start⟩ ∧
      HoldsField wWidth ⟨g.hit1.offset, g.hit1.width, g.hit1Width⟩ ∧ g.hit1Start ≠ g.hit1Width ∧
      HoldsField wStart ⟨g.hit2.offset, g.hit2.width, g.hit2Start⟩ ∧
      HoldsField wWidth ⟨g.hit2.offset, g.hit2.width, g.hit2Width⟩ ∧ g.hit2Start ≠ g.hit2Width ∧
      (∀ f ∈ (aluList g g.hit2Start g.hit1Start).drop 2, HoldsField wStart f ∧ HoldsField wWidth f)

/-- R162: a configuration is never elided: doing it twice leaves two equal frames. -/
def Obligations.ConfigurationIsNeverElided : Prop :=
  ∀ (i : Instr) (s : State), i = .cfgStart ∨ i = .cfgWidth →
    ∃ t u e, exec i s = .next t ∧ exec i t = .next u ∧ u.log = s.log ++ [e, e]

-- ---------------------------------------------------------------- faults

/-- R131: an operation that faults has had no effect: no frame, `ACC` as it was, no answer used, no control
transferred; the response is the fault and the model's record has one more entry. -/
def Obligations.FaultLeavesNoTrace : Prop :=
  ∀ (i : Instr) (s t : State) (f : BlockFault), exec i s = .next t → t.response = some (.fault f) →
    t = { s with busy := false, response := some (.fault f), faults := s.faults ++ [f] }

/-- R132: after a fault the next operation does what it would have done without the faulting one, but for the
model's own record of faults. -/
def Obligations.FaultIsForgottenByTheBlock : Prop :=
  ∀ (i j : Instr) (s t u : State) (f : BlockFault), exec i s = .next t → t.response = some (.fault f) →
    exec j s = .next u →
      exec j t = .next { u with faults := s.faults ++ f :: u.faults.drop s.faults.length }

/-- R130: which operation raises which fault, on which operands; a well-formed wire command raises none. -/
def Obligations.FaultsComeFromTheirOperations : Prop :=
  ∀ (i : Instr) (s t : State) (f : BlockFault), i.wellFormed = true → exec i s = .next t →
    t.response = some (.fault f) →
      match f with
      | .badOperation _ => False
      | .badCommand cmd => i = .sendCommand cmd ∧ cmd ≠ 0x50#8 ∧ cmd ≠ 0x70#8 ∧ cmd ≠ 0x01#8
      | .badRegisterIndex r => 6 < r.toNat ∧
          ((∃ v, i = .writeRegister r v) ∨ (∃ c, i = .readBytes c r) ∨ i = .readRegisterUpperHalf r)
      | .badCount c => (c.toNat < 1 ∨ 4 < c.toNat) ∧ ∃ r, r.toNat ≤ 6 ∧ i = .readBytes c r
      | .fieldOutOfRange n => ∃ fields, i = .pack fields ∧ ∃ g, fields[n]? = some g ∧ ¬ FieldInWord g
      | .fieldOverflow n => ∃ fields, i = .pack fields ∧ ∃ g, fields[n]? = some g ∧ 2 ^ g.width ≤ g.value.toNat
      | .fieldOverlap n m => n < m ∧ ∃ fields, i = .pack fields ∧ ∃ g h, fields[n]? = some g ∧
          fields[m]? = some h ∧ ShareBit g h

-- ---------------------------------------------------------------- the whole machine

/-- R25, R150: the values the spec gives for the block's reset. -/
def Obligations.StateAfterReset : Prop :=
  State.reset.acc = 0#32 ∧ State.reset.busy = false ∧ State.reset.bus.chipSelect = .released ∧ State.reset.log = []

/-- The invariant holds after reset (the empty fault record and the absence of a response are the model's choice, log
entry 7). -/
def Obligations.InvariantHoldsAfterReset : Prop := Inv State.reset

/-- From every state that meets the invariant, a step gives a state that meets it: the ports idle again (R16, R80),
the log of this block's frames only, each answered in full (R50, R61, R64), every recorded fault a violation of its
own contract (R130), the lines and the response in agreement with the log and the record. -/
def Obligations.EveryStepKeepsTheInvariant : Prop := ∀ s t : State, Inv s → step s = .next t → Inv t

/-- R17, R131: no step removes or changes an entry of the log or of the record of faults; it adds at most one to
either, and never to both. -/
def Obligations.HistoryOnlyGrows : Prop :=
  ∀ s t : State, step s = .next t →
    ∃ (frames : List LogEntry) (faults : List BlockFault), t.log = s.log ++ frames ∧ t.faults = s.faults ++ faults ∧
      frames.length + faults.length ≤ 1

/-- R10: `ACC` is written by `PACK`, `CFG_START` and `CFG_WIDTH` only. -/
def Obligations.AccWrittenByPackAndConfigurationsOnly : Prop :=
  ∀ (i : Instr) (s t : State), exec i s = .next t → (∀ fields, i ≠ .pack fields) → i ≠ .cfgStart → i ≠ .cfgWidth →
    t.acc = s.acc

/-- R10: no operation reads the value a previous operation left in `ACC`: from states that differ in `ACC` alone,
every instruction gives states that differ in `ACC` alone. -/
def Obligations.NoOperationReadsOldAcc : Prop :=
  ∀ (i : Instr) (s t : State) (a : Word), exec i s = .next t → ∃ b, exec i { s with acc := a } = .next { t with acc := b }

/-- R13, R17: no operation reads the log, the record of faults or the last response: from states that differ in
these alone, every instruction answers alike and adds alike. -/
def Obligations.NoOperationReadsHistory : Prop :=
  ∀ (i : Instr) (s t : State) (log : List LogEntry) (faults : List BlockFault) (response : Option Response),
    exec i s = .next t →
      exec i { s with log := log, faults := faults, response := response } = .next { t with
        log := log ++ t.log.drop s.log.length
        faults := faults ++ t.faults.drop s.faults.length }

/-- R14, R38, R50: every instruction leaves the host's events alone, ends with a response on a ready port, and uses up
exactly the answers its frame clocked in: `k` of them if it performs a frame with that `k`, none if it performs no
frame. -/
def Obligations.InstructionsUseOnlyTheirAnswers : Prop :=
  ∀ (i : Instr) (s : State), ∃ t k, exec i s = .next t ∧ t.pending = s.pending ∧ t.busy = false ∧
    t.response.isSome = true ∧ k ≤ 4 ∧ t.rxQueue = s.rxQueue.drop k ∧
    t.rxDraws = s.rxDraws + (k - s.rxQueue.length) ∧ t.fillDraws = s.fillDraws + k ∧
    ((t.log = s.log ∧ k = 0) ∨ ∃ e, t.log = s.log ++ [e] ∧ e.k = k)

-- ---------------------------------------------------------------- the host side

/-- R113, R121, R123: bit 9 of the status decides; set, both values are the sentinel whatever was read; clear, they
are the values read, a genuine maximum among them. -/
def Obligations.TimeoutSubstitutesTheSentinel : Prop :=
  ∀ (start width : Half) (status : Word),
    ((status.toNat >>> 9) &&& 1 = 1 → measurementPoint start width status = ⟨0xFFFF#16, 0xFFFF#16⟩) ∧
    ((status.toNat >>> 9) &&& 1 = 0 → measurementPoint start width status = ⟨start, width⟩)

/-- R114: the read-back 0x55 leaves the mask as it is; any other sets the failure bit and no other. -/
def Obligations.SelfTestSetsTheFailureBitOnMismatch : Prop :=
  ∀ (mask : Nat) (b : Word),
    (b = 0x55#32 → selfTestMask mask b = mask) ∧
    (b ≠ 0x55#32 → ∀ n, (selfTestMask mask b).testBit n = (mask.testBit n || decide (n = Config.initFailureBit)))

/-- R114: the self-test is one frame, a read of one byte of register 5; the byte that frame returned decides the mask:
0x55 leaves it, any other sets the failure bit and no other. -/
def Obligations.SelfTestReadsOneByteAndSetsTheMask : Prop :=
  ∀ (mask : Nat) (s : State), PortsIdle s → ∃ mask' t b, selfTest mask s = some (mask', t) ∧
    t.log = s.log ++ [{ tx := [0xB5#8], k := 1, rx := [b] }] ∧
    (b = 0x55#8 → mask' = mask) ∧
    (b ≠ 0x55#8 → ∀ n, mask'.testBit n = (mask.testBit n || decide (n = Config.initFailureBit)))

/-- R153, R154, R155, R158, R160: a run of the host on a ready block with an empty log completes, whatever the
peripheral answers; its log is that of the boot order and `n` cycles, each cycle has emitted a point, and the mask is
the one the self-test left, whatever the cycles did. -/
def Obligations.HostRunKeepsTheProtocol : Prop :=
  ∀ (w : StaticWords) (n mask : Nat) (s : State), PortsIdle s → s.log = [] → ∃ d t b,
    hostRun w n mask s = some (d, t) ∧ t.log.length = 7 + 7 * n ∧ keepsProtocol Config.reg1 t.log = true ∧
      d.points.length = n ∧ t.log[6]? = some { tx := [0xB5#8], k := 1, rx := b } ∧
      d.deviceStateMask = selfTestMask mask (readValue b)

/-- R124, R155, R160: in a log that keeps the protocol, the frames of cycle `m` are the write of `W_START`, `INIT`,
`START_TOF`, the read of register 0, the write of `W_WIDTH`, the read of register 1 and the status read, as far as
the log goes; and the two writes are not the same bytes, so no other order of them passes. -/
def Obligations.ProtocolFixesTheOrderOfACycle : Prop :=
  ∀ (g : Config.Reg1) (log : List LogEntry) (m : Nat), g.wellFormed = true → keepsProtocol g log = true →
    writeTx 1#3 (packWord (startFields g)) ≠ writeTx 1#3 (packWord (widthFields g)) ∧
    (∀ e, log[7 + 7 * m]? = some e → e.tx = writeTx 1#3 (packWord (startFields g))) ∧
    (∀ e, log[7 + 7 * m + 1]? = some e → e.tx = [0x70#8]) ∧
    (∀ e, log[7 + 7 * m + 2]? = some e → e.tx = [0x01#8]) ∧
    (∀ e, log[7 + 7 * m + 3]? = some e → e.tx = [0xB0#8] ∧ e.k = 4) ∧
    (∀ e, log[7 + 7 * m + 4]? = some e → e.tx = writeTx 1#3 (packWord (widthFields g))) ∧
    (∀ e, log[7 + 7 * m + 5]? = some e → e.tx = [0xB1#8] ∧ e.k = 4) ∧
    (∀ e, log[7 + 7 * m + 6]? = some e → e.tx = [0xB4#8] ∧ e.k = 2)
end

