-- ==== Sys2Proof/Laws/Decode.lean ====
section
/-! SUPPORT. The pieces of the encodings: an opcode byte's upper five and lower three bits (R52 to R54), and a
write's data bytes (R55). -/

namespace Sys2Proof

/-- Bits 7:3 of a write opcode are 10000 and bits 2:0 the index (R52). -/
theorem writeOpcode_fields : ∀ r : RegIndex,
    (opcodeByte Config.opWriteRegBase r).extractLsb' 3 5 = 0b10000#5 ∧
      (opcodeByte Config.opWriteRegBase r).extractLsb' 0 3 = r := by decide

/-- Bits 7:3 of a read opcode are 10110 and bits 2:0 the index (R53). -/
theorem readOpcode_fields : ∀ r : RegIndex,
    (opcodeByte Config.opReadRegBase r).extractLsb' 3 5 = 0b10110#5 ∧
      (opcodeByte Config.opReadRegBase r).extractLsb' 0 3 = r := by decide

/-- A byte with the upper bits of a write opcode is the write opcode of its lower bits (R52, R54). -/
theorem writeOpcode_of_fields : ∀ b : Byte, b.extractLsb' 3 5 = 0b10000#5 →
    opcodeByte Config.opWriteRegBase (b.extractLsb' 0 3) = b := by decide

/-- A byte with the upper bits of a read opcode is the read opcode of its lower bits (R53, R54). -/
theorem readOpcode_of_fields : ∀ b : Byte, b.extractLsb' 3 5 = 0b10110#5 →
    opcodeByte Config.opReadRegBase (b.extractLsb' 0 3) = b := by decide

/-- The data bytes of a write carry all 32 bits (R55). -/
theorem wordOfBytes_wordBytes (v : Word) :
    wordOfBytes (v.extractLsb' 24 8) (v.extractLsb' 16 8) (v.extractLsb' 8 8) (v.extractLsb' 0 8) = v := by
  apply BitVec.eq_of_getLsbD_eq
  intro i hi
  simp only [wordOfBytes, BitVec.getLsbD_append, BitVec.getLsbD_extractLsb']
  split
  · next h => simp [h]
  · next h =>
    split
    · next h1 => simp [h1, show 8 + (i - 8) = i by omega]
    · next h1 =>
      split
      · next h2 => simp [h2, show 16 + (i - 8 - 8) = i by omega]
      · next h2 => simp [show i - 8 - 8 - 8 < 8 by omega, show 24 + (i - 8 - 8 - 8) = i by omega]

/-- Four data bytes are the bytes of their word (R55). -/
theorem wordBytes_wordOfBytes (b3 b2 b1 b0 : Byte) : wordBytes (wordOfBytes b3 b2 b1 b0) = [b3, b2, b1, b0] := by
  simp only [wordBytes, wordOfBytes, List.cons.injEq, and_true]
  refine ⟨?_, ?_, ?_, ?_⟩ <;>
    (apply BitVec.eq_of_getLsbD_eq
     intro i hi
     simp only [BitVec.getLsbD_extractLsb', BitVec.getLsbD_append, hi, decide_true, Bool.true_and])
  · simp [show ¬ 24 + i < 8 by omega, show ¬ 24 + i - 8 < 8 by omega, show ¬ 24 + i - 8 - 8 < 8 by omega,
      show 24 + i - 8 - 8 - 8 = i by omega]
  · simp [show ¬ 16 + i < 8 by omega, show ¬ 16 + i - 8 < 8 by omega, show 16 + i - 8 - 8 = i by omega,
      show ¬ 8 ≤ i by omega]
  · simp [show ¬ 8 + i < 8 by omega, show 8 + i - 8 = i by omega, show ¬ 8 ≤ i by omega]
  · simp [hi]

end Sys2Proof
end

