-- ==== Sys2Proof/Laws/Fields.lean ====
section
/-! SUPPORT. The Register Field Encoder's pieces, said once: what the three checks decide (R71, R133) and which bits
the packed word has (R71 to R76). -/

namespace Sys2Proof.Machine

theorem fieldInRange_iff (f : Field) : fieldInRange f = true ↔ FieldInWord f := by
  simp [fieldInRange, FieldInWord, and_assoc]

theorem fieldFits_iff (f : Field) : fieldFits f = true ↔ ValueFits f := by simp [fieldFits, ValueFits]

theorem fieldsOverlap_iff (f g : Field) : fieldsOverlap f g = true ↔ ShareBit f g := by
  simp [fieldsOverlap, ShareBit]

/-- No pair overlaps exactly when the fields are pairwise disjoint. -/
theorem firstOverlap_eq_none_iff (n : Nat) (fields : List Field) :
    firstOverlap n fields = none ↔ fields.Pairwise fun f g => ¬ ShareBit f g := by
  induction fields generalizing n with
  | nil => simp [firstOverlap]
  | cons f rest ih =>
    rw [firstOverlap, List.pairwise_cons]
    cases h : rest.findIdx? (fieldsOverlap f) with
    | none =>
      have hn : ∀ g ∈ rest, ¬ ShareBit f g := by
        intro g hg
        rw [← fieldsOverlap_iff]
        simpa using (List.findIdx?_eq_none_iff.mp h) g hg
      exact ⟨fun h => ⟨hn, (ih _).mp h⟩, fun h => (ih _).mpr h.2⟩
    | some d =>
      obtain ⟨hd, hp, -⟩ := List.findIdx?_eq_some_iff_getElem.mp h
      simp only [reduceCtorEq, false_iff, not_and]
      intro hall
      exact absurd ((fieldsOverlap_iff _ _).mp hp) (hall _ (List.getElem_mem hd))

/-- The checks all pass exactly for the legal lists (R71). -/
theorem checkFields_eq_none_iff (fields : List Field) : checkFields fields = none ↔ LegalFields fields := by
  unfold checkFields LegalFields
  cases hr : fields.findIdx? (fun f => !fieldInRange f) with
  | some i =>
    obtain ⟨hi, hp, -⟩ := List.findIdx?_eq_some_iff_getElem.mp hr
    simp only [reduceCtorEq, false_iff, not_and]
    intro hall
    have := (fieldInRange_iff _).mpr (hall _ (List.getElem_mem hi))
    simp [this] at hp
  | none =>
    have h1 : ∀ f ∈ fields, FieldInWord f := fun f hf => by
      rw [← fieldInRange_iff]; simpa using (List.findIdx?_eq_none_iff.mp hr) f hf
    cases hv : fields.findIdx? (fun f => !fieldFits f) with
    | some i =>
      obtain ⟨hi, hp, -⟩ := List.findIdx?_eq_some_iff_getElem.mp hv
      simp only [reduceCtorEq, false_iff, not_and]
      intro _ hall
      have := (fieldFits_iff _).mpr (hall _ (List.getElem_mem hi))
      simp [this] at hp
    | none =>
      have h2 : ∀ f ∈ fields, ValueFits f := fun f hf => by
        rw [← fieldFits_iff]; simpa using (List.findIdx?_eq_none_iff.mp hv) f hf
      rw [← firstOverlap_eq_none_iff 0]
      cases hp : firstOverlap 0 fields with
      | some p => simp
      | none => exact ⟨fun _ => ⟨h1, h2, rfl⟩, fun _ => rfl⟩

/-- A fault of the checks is one of the three of `PACK`, and an overlap names its positions in order (R130). -/
theorem checkFields_lawful {fields : List Field} {f : BlockFault} (h : checkFields fields = some f) :
    (∃ i, f = .fieldOutOfRange i) ∨ (∃ i, f = .fieldOverflow i) ∨ (∃ i j, f = .fieldOverlap i j ∧ i < j) := by
  have order : ∀ (fs : List Field) (n : Nat) (p : Nat × Nat), firstOverlap n fs = some p → p.1 < p.2 := by
    intro fs
    induction fs with
    | nil => intro n p hp; simp [firstOverlap] at hp
    | cons g rest ih =>
      intro n p hp
      rw [firstOverlap] at hp
      cases hd : rest.findIdx? (fieldsOverlap g) with
      | some d => rw [hd] at hp; cases hp; show n < n + 1 + d; omega
      | none => rw [hd] at hp; exact ih _ _ hp
  unfold checkFields at h
  split at h
  · next i _ => exact .inl ⟨i, by simpa using h.symm⟩
  · split at h
    · next i _ => exact .inr (.inl ⟨i, by simpa using h.symm⟩)
    · split at h
      · next p hp => exact .inr (.inr ⟨p.1, p.2, by simpa using h.symm, order _ _ _ hp⟩)
      · cases h

/-- The accumulator after ORing fields into any start value. -/
theorem foldl_or_getLsbD (fields : List Field) (a : Word) (b : Nat) :
    (fields.foldl (fun acc f => acc ||| (f.value <<< f.offset)) a).getLsbD b =
      (a.getLsbD b || fields.any fun f => (f.value <<< f.offset).getLsbD b) := by
  induction fields generalizing a with
  | nil => simp
  | cons f rest ih => simp only [List.foldl_cons, ih, BitVec.getLsbD_or, List.any_cons, Bool.or_assoc]

/-- A bit of the packed word is set exactly when some field's shifted value has it (R71). -/
theorem packWord_getLsbD (fields : List Field) (b : Nat) :
    (packWord fields).getLsbD b = fields.any fun f => (f.value <<< f.offset).getLsbD b := by
  simp [packWord, foldl_or_getLsbD]

/-- A shifted value that fits its field has bits only inside the field (R73). -/
theorem shifted_getLsbD {f : Field} (hw : FieldInWord f) (hv : ValueFits f) (b : Nat) :
    (f.value <<< f.offset).getLsbD b = true ↔ BitInField b f ∧ f.value.getLsbD (b - f.offset) = true := by
  obtain ⟨-, -, -, h⟩ := hw
  simp only [BitVec.getLsbD_shiftLeft, BitInField, Bool.and_eq_true, decide_eq_true_eq, Bool.not_eq_true',
    decide_eq_false_iff_not, Nat.not_lt]
  constructor
  · rintro ⟨⟨h32, ho⟩, hb⟩
    refine ⟨⟨ho, ?_⟩, hb⟩
    by_contra hlt
    have : f.value.toNat < 2 ^ (b - f.offset) :=
      lt_of_lt_of_le hv (Nat.pow_le_pow_right (by omega) (by omega))
    rw [BitVec.getLsbD, Nat.testBit_lt_two_pow this] at hb
    exact absurd hb (by simp)
  · rintro ⟨⟨ho, hlt⟩, hb⟩
    exact ⟨⟨by omega, ho⟩, hb⟩

/-- Inside a field of a legal list the packed word has the field's own bits (R72). -/
theorem packWord_getLsbD_of_mem {fields : List Field} (h : LegalFields fields) {f : Field} (hf : f ∈ fields)
    {b : Nat} (hb : BitInField b f) : (packWord fields).getLsbD b = f.value.getLsbD (b - f.offset) := by
  obtain ⟨hw, hv, hd⟩ := h
  rw [packWord_getLsbD, Bool.eq_iff_iff, List.any_eq_true]
  constructor
  · rintro ⟨g, hg, hgb⟩
    have hin := (shifted_getLsbD (hw g hg) (hv g hg) b).mp hgb
    have hfg : f = g := by
      by_contra hne
      have symm : Std.Symm fun f g : Field => ¬ ShareBit f g := ⟨fun _ _ h hs => h ⟨hs.2, hs.1⟩⟩
      have hs : ¬ ShareBit f g := hd.forall hf hg hne
      have h1 := hb.1; have h2 := hb.2; have h3 := hin.1.1; have h4 := hin.1.2
      exact hs ⟨by omega, by omega⟩
    rw [hfg]; exact hin.2
  · intro hfb
    exact ⟨f, hf, (shifted_getLsbD (hw f hf) (hv f hf) b).mpr ⟨hb, hfb⟩⟩

/-- Outside every field of a legal list the packed word is zero (R73). -/
theorem packWord_getLsbD_of_not_mem {fields : List Field} (h : LegalFields fields) {b : Nat}
    (hb : ∀ f ∈ fields, ¬ BitInField b f) : (packWord fields).getLsbD b = false := by
  rw [packWord_getLsbD, List.any_eq_false]
  intro f hf hbit
  exact hb f hf ((shifted_getLsbD (h.1 f hf) (h.2.1 f hf) b).mp hbit).1

end Sys2Proof.Machine
end

