-- ==== Sys2Proof/Laws/State.lean ====
section
/-! SUPPORT. What each update does to each field of State: one lemma for each field of each update. -/

namespace Sys2Proof.Machine

@[simp] theorem respond_acc (r : Response) (s : State) : (respond r s).acc = s.acc := rfl
@[simp] theorem respond_busy (r : Response) (s : State) : (respond r s).busy = false := rfl
@[simp] theorem respond_pending (r : Response) (s : State) : (respond r s).pending = s.pending := rfl
@[simp] theorem respond_response (r : Response) (s : State) : (respond r s).response = some r := rfl
@[simp] theorem respond_bus (r : Response) (s : State) : (respond r s).bus = s.bus := rfl
@[simp] theorem respond_rxQueue (r : Response) (s : State) : (respond r s).rxQueue = s.rxQueue := rfl
@[simp] theorem respond_rxDraws (r : Response) (s : State) : (respond r s).rxDraws = s.rxDraws := rfl
@[simp] theorem respond_fillDraws (r : Response) (s : State) : (respond r s).fillDraws = s.fillDraws := rfl
@[simp] theorem respond_log (r : Response) (s : State) : (respond r s).log = s.log := rfl
@[simp] theorem respond_faults (r : Response) (s : State) : (respond r s).faults = s.faults := rfl

@[simp] theorem complete_acc (v : Result) (s : State) : (complete v s).acc = s.acc := rfl
@[simp] theorem complete_busy (v : Result) (s : State) : (complete v s).busy = false := rfl
@[simp] theorem complete_pending (v : Result) (s : State) : (complete v s).pending = s.pending := rfl
@[simp] theorem complete_response (v : Result) (s : State) : (complete v s).response = some (.ok v) := rfl
@[simp] theorem complete_bus (v : Result) (s : State) : (complete v s).bus = s.bus := rfl
@[simp] theorem complete_rxQueue (v : Result) (s : State) : (complete v s).rxQueue = s.rxQueue := rfl
@[simp] theorem complete_rxDraws (v : Result) (s : State) : (complete v s).rxDraws = s.rxDraws := rfl
@[simp] theorem complete_fillDraws (v : Result) (s : State) : (complete v s).fillDraws = s.fillDraws := rfl
@[simp] theorem complete_log (v : Result) (s : State) : (complete v s).log = s.log := rfl
@[simp] theorem complete_faults (v : Result) (s : State) : (complete v s).faults = s.faults := rfl

@[simp] theorem raise_acc (f : BlockFault) (s : State) : (raise f s).acc = s.acc := rfl
@[simp] theorem raise_busy (f : BlockFault) (s : State) : (raise f s).busy = false := rfl
@[simp] theorem raise_pending (f : BlockFault) (s : State) : (raise f s).pending = s.pending := rfl
@[simp] theorem raise_response (f : BlockFault) (s : State) : (raise f s).response = some (.fault f) := rfl
@[simp] theorem raise_bus (f : BlockFault) (s : State) : (raise f s).bus = s.bus := rfl
@[simp] theorem raise_rxQueue (f : BlockFault) (s : State) : (raise f s).rxQueue = s.rxQueue := rfl
@[simp] theorem raise_rxDraws (f : BlockFault) (s : State) : (raise f s).rxDraws = s.rxDraws := rfl
@[simp] theorem raise_fillDraws (f : BlockFault) (s : State) : (raise f s).fillDraws = s.fillDraws := rfl
@[simp] theorem raise_log (f : BlockFault) (s : State) : (raise f s).log = s.log := rfl
@[simp] theorem raise_faults (f : BlockFault) (s : State) : (raise f s).faults = s.faults ++ [f] := rfl

@[simp] theorem accept_acc (rest : List HostEvent) (s : State) : (accept rest s).acc = s.acc := rfl
@[simp] theorem accept_busy (rest : List HostEvent) (s : State) : (accept rest s).busy = true := rfl
@[simp] theorem accept_pending (rest : List HostEvent) (s : State) : (accept rest s).pending = rest := rfl
@[simp] theorem accept_response (rest : List HostEvent) (s : State) : (accept rest s).response = s.response := rfl
@[simp] theorem accept_bus (rest : List HostEvent) (s : State) : (accept rest s).bus = s.bus := rfl
@[simp] theorem accept_rxQueue (rest : List HostEvent) (s : State) : (accept rest s).rxQueue = s.rxQueue := rfl
@[simp] theorem accept_rxDraws (rest : List HostEvent) (s : State) : (accept rest s).rxDraws = s.rxDraws := rfl
@[simp] theorem accept_fillDraws (rest : List HostEvent) (s : State) : (accept rest s).fillDraws = s.fillDraws := rfl
@[simp] theorem accept_log (rest : List HostEvent) (s : State) : (accept rest s).log = s.log := rfl
@[simp] theorem accept_faults (rest : List HostEvent) (s : State) : (accept rest s).faults = s.faults := rfl

@[simp] theorem passTime_acc (rest : List HostEvent) (s : State) : (passTime rest s).acc = s.acc := rfl
@[simp] theorem passTime_busy (rest : List HostEvent) (s : State) : (passTime rest s).busy = s.busy := rfl
@[simp] theorem passTime_pending (rest : List HostEvent) (s : State) : (passTime rest s).pending = rest := rfl
@[simp] theorem passTime_response (rest : List HostEvent) (s : State) : (passTime rest s).response = s.response := rfl
@[simp] theorem passTime_bus (rest : List HostEvent) (s : State) : (passTime rest s).bus = s.bus := rfl
@[simp] theorem passTime_rxQueue (rest : List HostEvent) (s : State) : (passTime rest s).rxQueue = s.rxQueue := rfl
@[simp] theorem passTime_rxDraws (rest : List HostEvent) (s : State) : (passTime rest s).rxDraws = s.rxDraws := rfl
@[simp] theorem passTime_fillDraws (rest : List HostEvent) (s : State) : (passTime rest s).fillDraws = s.fillDraws := rfl
@[simp] theorem passTime_log (rest : List HostEvent) (s : State) : (passTime rest s).log = s.log := rfl
@[simp] theorem passTime_faults (rest : List HostEvent) (s : State) : (passTime rest s).faults = s.faults := rfl

@[simp] theorem loadAcc_acc (fields : List Field) (s : State) : (loadAcc fields s).acc = packWord fields := rfl
@[simp] theorem loadAcc_busy (fields : List Field) (s : State) : (loadAcc fields s).busy = s.busy := rfl
@[simp] theorem loadAcc_pending (fields : List Field) (s : State) : (loadAcc fields s).pending = s.pending := rfl
@[simp] theorem loadAcc_response (fields : List Field) (s : State) : (loadAcc fields s).response = s.response := rfl
@[simp] theorem loadAcc_bus (fields : List Field) (s : State) : (loadAcc fields s).bus = s.bus := rfl
@[simp] theorem loadAcc_rxQueue (fields : List Field) (s : State) : (loadAcc fields s).rxQueue = s.rxQueue := rfl
@[simp] theorem loadAcc_rxDraws (fields : List Field) (s : State) : (loadAcc fields s).rxDraws = s.rxDraws := rfl
@[simp] theorem loadAcc_fillDraws (fields : List Field) (s : State) : (loadAcc fields s).fillDraws = s.fillDraws := rfl
@[simp] theorem loadAcc_log (fields : List Field) (s : State) : (loadAcc fields s).log = s.log := rfl
@[simp] theorem loadAcc_faults (fields : List Field) (s : State) : (loadAcc fields s).faults = s.faults := rfl

@[simp] theorem placeItem_acc (item : Item) (s : State) : (placeItem item s).acc = s.acc := rfl
@[simp] theorem placeItem_busy (item : Item) (s : State) : (placeItem item s).busy = false := rfl
@[simp] theorem placeItem_pending (item : Item) (s : State) : (placeItem item s).pending = .issue item :: s.pending := rfl
@[simp] theorem placeItem_response (item : Item) (s : State) : (placeItem item s).response = s.response := rfl
@[simp] theorem placeItem_bus (item : Item) (s : State) : (placeItem item s).bus = { s.bus with chipSelect := .released } := rfl
@[simp] theorem placeItem_rxQueue (item : Item) (s : State) : (placeItem item s).rxQueue = s.rxQueue := rfl
@[simp] theorem placeItem_rxDraws (item : Item) (s : State) : (placeItem item s).rxDraws = s.rxDraws := rfl
@[simp] theorem placeItem_fillDraws (item : Item) (s : State) : (placeItem item s).fillDraws = s.fillDraws := rfl
@[simp] theorem placeItem_log (item : Item) (s : State) : (placeItem item s).log = s.log := rfl
@[simp] theorem placeItem_faults (item : Item) (s : State) : (placeItem item s).faults = s.faults := rfl

@[simp] theorem openFrame_acc (s : State) : (openFrame s).acc = s.acc := rfl
@[simp] theorem openFrame_busy (s : State) : (openFrame s).busy = s.busy := rfl
@[simp] theorem openFrame_pending (s : State) : (openFrame s).pending = s.pending := rfl
@[simp] theorem openFrame_response (s : State) : (openFrame s).response = s.response := rfl
@[simp] theorem openFrame_bus (s : State) : (openFrame s).bus = { chipSelect := .asserted, driven := [], sampled := [] } := rfl
@[simp] theorem openFrame_rxQueue (s : State) : (openFrame s).rxQueue = s.rxQueue := rfl
@[simp] theorem openFrame_rxDraws (s : State) : (openFrame s).rxDraws = s.rxDraws := rfl
@[simp] theorem openFrame_fillDraws (s : State) : (openFrame s).fillDraws = s.fillDraws := rfl
@[simp] theorem openFrame_log (s : State) : (openFrame s).log = s.log := rfl
@[simp] theorem openFrame_faults (s : State) : (openFrame s).faults = s.faults := rfl

@[simp] theorem sendBytes_acc (tx : List Byte) (s : State) : (sendBytes tx s).acc = s.acc := rfl
@[simp] theorem sendBytes_busy (tx : List Byte) (s : State) : (sendBytes tx s).busy = s.busy := rfl
@[simp] theorem sendBytes_pending (tx : List Byte) (s : State) : (sendBytes tx s).pending = s.pending := rfl
@[simp] theorem sendBytes_response (tx : List Byte) (s : State) : (sendBytes tx s).response = s.response := rfl
@[simp] theorem sendBytes_bus (tx : List Byte) (s : State) : (sendBytes tx s).bus = { s.bus with driven := s.bus.driven ++ tx } := rfl
@[simp] theorem sendBytes_rxQueue (tx : List Byte) (s : State) : (sendBytes tx s).rxQueue = s.rxQueue := rfl
@[simp] theorem sendBytes_rxDraws (tx : List Byte) (s : State) : (sendBytes tx s).rxDraws = s.rxDraws := rfl
@[simp] theorem sendBytes_fillDraws (tx : List Byte) (s : State) : (sendBytes tx s).fillDraws = s.fillDraws := rfl
@[simp] theorem sendBytes_log (tx : List Byte) (s : State) : (sendBytes tx s).log = s.log := rfl
@[simp] theorem sendBytes_faults (tx : List Byte) (s : State) : (sendBytes tx s).faults = s.faults := rfl

@[simp] theorem closeFrame_acc (s : State) : (closeFrame s).acc = s.acc := rfl
@[simp] theorem closeFrame_busy (s : State) : (closeFrame s).busy = s.busy := rfl
@[simp] theorem closeFrame_pending (s : State) : (closeFrame s).pending = s.pending := rfl
@[simp] theorem closeFrame_response (s : State) : (closeFrame s).response = s.response := rfl
@[simp] theorem closeFrame_bus (s : State) : (closeFrame s).bus = { s.bus with chipSelect := .released } := rfl
@[simp] theorem closeFrame_rxQueue (s : State) : (closeFrame s).rxQueue = s.rxQueue := rfl
@[simp] theorem closeFrame_rxDraws (s : State) : (closeFrame s).rxDraws = s.rxDraws := rfl
@[simp] theorem closeFrame_fillDraws (s : State) : (closeFrame s).fillDraws = s.fillDraws := rfl
@[simp] theorem closeFrame_log (s : State) : (closeFrame s).log = s.log := rfl
@[simp] theorem closeFrame_faults (s : State) : (closeFrame s).faults = s.faults := rfl

@[simp] theorem recordFrame_acc (tx : List Byte) (k : Nat) (s : State) : (recordFrame tx k s).acc = s.acc := rfl
@[simp] theorem recordFrame_busy (tx : List Byte) (k : Nat) (s : State) : (recordFrame tx k s).busy = s.busy := rfl
@[simp] theorem recordFrame_pending (tx : List Byte) (k : Nat) (s : State) : (recordFrame tx k s).pending = s.pending := rfl
@[simp] theorem recordFrame_response (tx : List Byte) (k : Nat) (s : State) : (recordFrame tx k s).response = s.response := rfl
@[simp] theorem recordFrame_bus (tx : List Byte) (k : Nat) (s : State) : (recordFrame tx k s).bus = s.bus := rfl
@[simp] theorem recordFrame_rxQueue (tx : List Byte) (k : Nat) (s : State) : (recordFrame tx k s).rxQueue = s.rxQueue := rfl
@[simp] theorem recordFrame_rxDraws (tx : List Byte) (k : Nat) (s : State) : (recordFrame tx k s).rxDraws = s.rxDraws := rfl
@[simp] theorem recordFrame_fillDraws (tx : List Byte) (k : Nat) (s : State) : (recordFrame tx k s).fillDraws = s.fillDraws := rfl
@[simp] theorem recordFrame_log (tx : List Byte) (k : Nat) (s : State) : (recordFrame tx k s).log = s.log ++ [{ tx := tx, k := k, rx := s.bus.sampled }] := rfl
@[simp] theorem recordFrame_faults (tx : List Byte) (k : Nat) (s : State) : (recordFrame tx k s).faults = s.faults := rfl

@[simp] theorem clockInByte_acc (s : State) : (clockInByte s).acc = s.acc := rfl
@[simp] theorem clockInByte_busy (s : State) : (clockInByte s).busy = s.busy := rfl
@[simp] theorem clockInByte_pending (s : State) : (clockInByte s).pending = s.pending := rfl
@[simp] theorem clockInByte_response (s : State) : (clockInByte s).response = s.response := rfl
@[simp] theorem clockInByte_bus (s : State) : (clockInByte s).bus = { s.bus with
      driven := s.bus.driven ++ [Config.rxFill s.fillDraws]
      sampled := s.bus.sampled ++ [answer s 0] } := rfl
@[simp] theorem clockInByte_rxQueue (s : State) : (clockInByte s).rxQueue = s.rxQueue.drop 1 := rfl
@[simp] theorem clockInByte_rxDraws (s : State) : (clockInByte s).rxDraws = s.rxDraws + (1 - s.rxQueue.length) := rfl
@[simp] theorem clockInByte_fillDraws (s : State) : (clockInByte s).fillDraws = s.fillDraws + 1 := rfl
@[simp] theorem clockInByte_log (s : State) : (clockInByte s).log = s.log := rfl
@[simp] theorem clockInByte_faults (s : State) : (clockInByte s).faults = s.faults := rfl

end Sys2Proof.Machine
end

