-- ==== Sys2Proof/Laws/Ops.lean ====
section
/-! SUPPORT. What the shared operations do, said once: a frame (R50), the response to an operation, and the state of
each operation as one case split. Later proofs cite these and unfold nothing. -/

namespace Sys2Proof.Machine

/-- The peripheral's answers after one byte has been clocked in are the earlier answers from the next position on. -/
theorem answer_clockInByte (s : State) (i : Nat) : answer (clockInByte s) i = answer s (i + 1) := by
  cases hq : s.rxQueue with
  | nil => simp [answer, clockInByte, hq]; congr 1; omega
  | cons b rest =>
    simp only [answer, clockInByte, hq, List.drop_one, List.tail_cons, List.getElem?_cons_succ, List.length_cons]
    cases rest[i]? with
    | some c => rfl
    | none => simp

@[simp] theorem answers_zero (s : State) : answers s 0 = [] := rfl

@[simp] theorem fillBytes_zero (s : State) : fillBytes s 0 = [] := rfl

theorem answers_succ (s : State) (k : Nat) : answers s (k + 1) = answer s 0 :: answers (clockInByte s) k := by
  simp [answers, List.range_succ_eq_map, Function.comp_def, answer_clockInByte]

@[simp] theorem answers_length (s : State) (k : Nat) : (answers s k).length = k := by simp [answers]

@[simp] theorem fillBytes_length (s : State) (k : Nat) : (fillBytes s k).length = k := by simp [fillBytes]

theorem fillBytes_succ (s : State) (k : Nat) :
    fillBytes s (k + 1) = Config.rxFill s.fillDraws :: fillBytes (clockInByte s) k := by
  simp [fillBytes, List.range_succ_eq_map, Function.comp_def, Nat.add_comm, Nat.add_left_comm]

/-- The peripheral's answers depend on the listed answers and on the counter of free bytes only. -/
theorem answer_congr {s t : State} (hq : t.rxQueue = s.rxQueue) (hd : t.rxDraws = s.rxDraws) (i : Nat) :
    answer t i = answer s i := by simp [answer, hq, hd]

theorem answers_congr {s t : State} (hq : t.rxQueue = s.rxQueue) (hd : t.rxDraws = s.rxDraws) (k : Nat) :
    answers t k = answers s k := by simp [answers, answer_congr hq hd]

theorem fillBytes_congr {s t : State} (hf : t.fillDraws = s.fillDraws) (k : Nat) :
    fillBytes t k = fillBytes s k := by simp [fillBytes, hf]

/-- Clocking in `k` bytes: the lines, the answers used up and the draws; nothing else (R50). -/
theorem clockIn_eq (k : Nat) (s : State) :
    clockIn k s = { s with
      bus := { s.bus with
        driven := s.bus.driven ++ fillBytes s k
        sampled := s.bus.sampled ++ answers s k }
      rxQueue := s.rxQueue.drop k
      rxDraws := s.rxDraws + (k - s.rxQueue.length)
      fillDraws := s.fillDraws + k } := by
  induction k generalizing s with
  | zero => simp [clockIn, fillBytes]
  | succ n ih =>
    rw [clockIn, ih, answers_succ, fillBytes_succ]
    simp only [clockInByte_acc, clockInByte_busy, clockInByte_pending, clockInByte_response, clockInByte_bus,
      clockInByte_rxQueue, clockInByte_rxDraws, clockInByte_fillDraws, clockInByte_log, clockInByte_faults,
      List.append_assoc, List.singleton_append, List.drop_drop, List.length_drop]
    have h1 : s.rxDraws + (1 - s.rxQueue.length) + (n - (s.rxQueue.length - 1)) =
        s.rxDraws + (n + 1 - s.rxQueue.length) := by omega
    have h2 : s.fillDraws + 1 + n = s.fillDraws + (n + 1) := by omega
    rw [h1, h2, Nat.add_comm 1 n]

/-- Everything a frame does (R17, R50): one log entry with the peripheral's answer, the lines, the answers used up;
nothing else. -/
theorem performFrame_eq (tx : List Byte) (k : Nat) (s : State) :
    performFrame tx k s = { s with
      bus := { chipSelect := .released, driven := tx ++ fillBytes s k, sampled := answers s k }
      rxQueue := s.rxQueue.drop k
      rxDraws := s.rxDraws + (k - s.rxQueue.length)
      fillDraws := s.fillDraws + k
      log := s.log ++ [{ tx := tx, k := k, rx := answers s k }] } := by
  rw [performFrame, clockIn_eq]
  rfl

@[simp] theorem performFrame_acc (tx : List Byte) (k : Nat) (s : State) : (performFrame tx k s).acc = s.acc := by
  rw [performFrame_eq]

@[simp] theorem performFrame_busy (tx : List Byte) (k : Nat) (s : State) : (performFrame tx k s).busy = s.busy := by
  rw [performFrame_eq]

@[simp] theorem performFrame_pending (tx : List Byte) (k : Nat) (s : State) :
    (performFrame tx k s).pending = s.pending := by rw [performFrame_eq]

@[simp] theorem performFrame_response (tx : List Byte) (k : Nat) (s : State) :
    (performFrame tx k s).response = s.response := by rw [performFrame_eq]

@[simp] theorem performFrame_faults (tx : List Byte) (k : Nat) (s : State) :
    (performFrame tx k s).faults = s.faults := by rw [performFrame_eq]

@[simp] theorem performFrame_bus (tx : List Byte) (k : Nat) (s : State) : (performFrame tx k s).bus =
    { chipSelect := .released, driven := tx ++ fillBytes s k, sampled := answers s k } := by rw [performFrame_eq]

@[simp] theorem performFrame_rxQueue (tx : List Byte) (k : Nat) (s : State) :
    (performFrame tx k s).rxQueue = s.rxQueue.drop k := by rw [performFrame_eq]

@[simp] theorem performFrame_rxDraws (tx : List Byte) (k : Nat) (s : State) :
    (performFrame tx k s).rxDraws = s.rxDraws + (k - s.rxQueue.length) := by rw [performFrame_eq]

@[simp] theorem performFrame_fillDraws (tx : List Byte) (k : Nat) (s : State) :
    (performFrame tx k s).fillDraws = s.fillDraws + k := by rw [performFrame_eq]

@[simp] theorem performFrame_log (tx : List Byte) (k : Nat) (s : State) :
    (performFrame tx k s).log = s.log ++ [{ tx := tx, k := k, rx := answers s k }] := by rw [performFrame_eq]

end Sys2Proof.Machine
end

