-- ==== Sys2Proof/Laws/Exec.lean ====
section
/-! SUPPORT. What an instruction can do, said once. Every instruction answers a next state, which is one of three:
a fault without a trace (R131), a packed word (R71), or exactly one frame of this block and `Ok` (R80). -/

namespace Sys2Proof.Machine

theorem execPack_eq (fields : List Field) (s : State) :
    exec (.pack fields) s = .next (packFields fields s) := rfl

theorem packFields_legal {fields : List Field} (h : LegalFields fields) (s : State) :
    packFields fields s = complete (.word (packWord fields)) (loadAcc fields s) := by
  rw [packFields, (checkFields_eq_none_iff fields).mpr h, loadAcc_acc]

theorem packFields_fault {fields : List Field} {f : BlockFault} (h : checkFields fields = some f) (s : State) :
    packFields fields s = raise f s := by rw [packFields, h]

theorem indexLegal_iff (r : RegIndex) : indexLegal r = true ↔ r.toNat ≤ 6 :=
  ⟨fun h => of_decide_eq_true h, fun h => decide_eq_true h⟩

theorem not_indexLegal_iff (r : RegIndex) : indexLegal r = false ↔ r = 7#3 := by
  revert r; decide

theorem countInRange_iff (k : Count) : countInRange k = true ↔ 1 ≤ k.toNat ∧ k.toNat ≤ 4 := by
  rw [countInRange, Bool.and_eq_true, decide_eq_true_iff, decide_eq_true_iff]
  rfl

theorem isCommand_iff (cmd : Byte) : isCommand cmd = true ↔ cmd = 0x50#8 ∨ cmd = 0x70#8 ∨ cmd = 0x01#8 := by
  simp [isCommand, Config.opReset, Config.opInit, Config.opStartTof, or_assoc]

/-- A single-byte command's bytes are a frame of the block (R51). -/
theorem isFrame_command {cmd : Byte} (h : isCommand cmd = true) : isFrame [cmd] 0 := by
  rcases (isCommand_iff cmd).mp h with rfl | rfl | rfl
  · exact ⟨.reset, by decide⟩
  · exact ⟨.init, by decide⟩
  · exact ⟨.startTof, by decide⟩

/-- A write's bytes are a frame of the block (R52). -/
theorem isFrame_write {r : RegIndex} (h : indexLegal r = true) (v : Word) : isFrame (writeTx r v) 0 := by
  have hd : decode (.wire (writeTx r v) 0) = writeInstr r v := by
    simp only [decode, writeTx, wordBytes, decodeWire, decodeFiveBytes, (writeOpcode_fields r).1,
      (writeOpcode_fields r).2, wordOfBytes_wordBytes, and_self, if_true]
  have hw : ∀ r : RegIndex, indexLegal r = true → ∃ i, writeInstr r v = .instr i := by
    intro r hr
    have h7 : r ≠ 7#3 := by
      rintro rfl
      exact absurd hr (by decide)
    have hall : ∀ r : RegIndex, r ≠ 7#3 → r = 0#3 ∨ r = 1#3 ∨ r = 2#3 ∨ r = 3#3 ∨ r = 4#3 ∨ r = 5#3 ∨ r = 6#3 := by
      decide
    rcases hall r h7 with rfl | rfl | rfl | rfl | rfl | rfl | rfl <;> exact ⟨_, rfl⟩
  obtain ⟨i, hi⟩ := hw r h
  exact ⟨i, hd.trans hi⟩

/-- A read's byte with a count of 1 to 4 is a frame of the block (R53). -/
theorem isFrame_read {r : RegIndex} (h : indexLegal r = true) {k : Nat} (h1 : 1 ≤ k) (h4 : k ≤ 4) :
    isFrame (readTx r) k := by
  have hall : ∀ (r : RegIndex) (c : Fin 5), indexLegal r = true → 1 ≤ c.val →
      (decode (.wire (readTx r) c.val) ≠ .reject .notAFrame) := by decide
  have hne := hall r ⟨k, by omega⟩ h h1
  cases hd : decode (.wire (readTx r) k) with
  | instr i => exact ⟨i, hd⟩
  | reject e =>
    exfalso
    have hwire : ∀ (c : Fin 5) (r : RegIndex), indexLegal r = true → 1 ≤ c.val →
        ∀ op, decode (.wire (readTx r) c.val) ≠ .reject (.badOperation op) := by decide
    cases e with
    | notAFrame => exact hne hd
    | badOperation op => exact hwire ⟨k, by omega⟩ r h h1 op hd

/-- The three things an instruction can do. -/
inductive Effect (i : Instr) (s : State) : State → Prop where
  /-- A fault, without a trace (R131). -/
  | faulted (f : BlockFault) (lawful : FaultLawful f) : Effect i s (raise f s)
  /-- A packed word (R71). -/
  | packed (fields : List Field) (isPack : i = .pack fields) (legal : LegalFields fields) :
      Effect i s (complete (.word (packWord fields)) (loadAcc fields s))
  /-- One frame of this block, `Ok` (R80). -/
  | framed (tx : List Byte) (k : Nat) (v : Result) (notPack : ∀ fields, i ≠ .pack fields) (frame : isFrame tx k) :
      Effect i s (complete v (performFrame tx k s))
  /-- One write of register index 1 from the accumulator, `Ok` (R102, R103). -/
  | configured (fields : List Field) (isCfg : i = .cfgStart ∨ i = .cfgWidth) (legal : LegalFields fields) :
      Effect i s (complete .none (performFrame (writeTx 1#3 (packWord fields)) 0 (loadAcc fields s)))

theorem commandFrame_effect {i : Instr} (hp : ∀ fields, i ≠ .pack fields) {cmd : Byte} (h : isCommand cmd = true)
    (s : State) : Effect i s (commandFrame cmd s) := .framed _ _ _ hp (isFrame_command h)

theorem writeFrame_effect {i : Instr} (hp : ∀ fields, i ≠ .pack fields) {r : RegIndex} (h : indexLegal r = true)
    (v : Word) (s : State) : Effect i s (writeFrame r v s) := .framed _ _ _ hp (isFrame_write h v)

theorem readCounted_effect {i : Instr} (hp : ∀ fields, i ≠ .pack fields) {r : RegIndex} (h : indexLegal r = true)
    (k : Count) (s : State) : Effect i s (readCounted k r s) := by
  unfold readCounted
  split
  · next hk =>
    obtain ⟨h1, h4⟩ := (countInRange_iff k).mp hk
    exact .framed _ _ _ hp (isFrame_read h h1 h4)
  · next hk =>
    refine .faulted _ ?_
    have := mt (countInRange_iff k).mpr hk
    show k.toNat < 1 ∨ 4 < k.toNat
    omega

theorem badIndex_effect {i : Instr} {r : RegIndex} (h : ¬ indexLegal r = true) (s : State) :
    Effect i s (raise (.badRegisterIndex r) s) :=
  .faulted _ ((not_indexLegal_iff r).mp (by simpa using h))

theorem checkFields_faultLawful {fields : List Field} {f : BlockFault} (h : checkFields fields = some f) :
    FaultLawful f := by
  rcases checkFields_lawful h with ⟨i, rfl⟩ | ⟨i, rfl⟩ | ⟨i, j, rfl, hij⟩
  · trivial
  · trivial
  · exact hij

theorem configure_effect {i : Instr} (hc : i = .cfgStart ∨ i = .cfgWidth) (fields : List Field) (s : State) :
    Effect i s (configure fields s) := by
  unfold configure
  split
  · next f hf => exact .faulted _ (checkFields_faultLawful hf)
  · next hn => exact .configured fields hc ((checkFields_eq_none_iff fields).mp hn)

/-- Every instruction answers a next state, with one of these effects. -/
theorem exec_effect (i : Instr) (s : State) : ∃ t, exec i s = .next t ∧ Effect i s t := by
  cases i with
  | startTof => exact ⟨_, rfl, commandFrame_effect (by simp) (by decide) s⟩
  | reset => exact ⟨_, rfl, commandFrame_effect (by simp) (by decide) s⟩
  | init => exact ⟨_, rfl, commandFrame_effect (by simp) (by decide) s⟩
  | writeReg0 v => exact ⟨_, rfl, writeFrame_effect (by simp) (by decide) v s⟩
  | writeReg1 v => exact ⟨_, rfl, writeFrame_effect (by simp) (by decide) v s⟩
  | writeReg2 v => exact ⟨_, rfl, writeFrame_effect (by simp) (by decide) v s⟩
  | writeReg3 v => exact ⟨_, rfl, writeFrame_effect (by simp) (by decide) v s⟩
  | writeReg4 v => exact ⟨_, rfl, writeFrame_effect (by simp) (by decide) v s⟩
  | writeReg5 v => exact ⟨_, rfl, writeFrame_effect (by simp) (by decide) v s⟩
  | writeReg6 v => exact ⟨_, rfl, writeFrame_effect (by simp) (by decide) v s⟩
  | readReg0 k => exact ⟨_, rfl, readCounted_effect (by simp) (by decide) k s⟩
  | readReg1 k => exact ⟨_, rfl, readCounted_effect (by simp) (by decide) k s⟩
  | readReg2 k => exact ⟨_, rfl, readCounted_effect (by simp) (by decide) k s⟩
  | readReg3 k => exact ⟨_, rfl, readCounted_effect (by simp) (by decide) k s⟩
  | readReg4 k => exact ⟨_, rfl, readCounted_effect (by simp) (by decide) k s⟩
  | readReg5 k => exact ⟨_, rfl, readCounted_effect (by simp) (by decide) k s⟩
  | readReg6 k => exact ⟨_, rfl, readCounted_effect (by simp) (by decide) k s⟩
  | pack fields =>
    refine ⟨_, rfl, ?_⟩
    cases h : checkFields fields with
    | none =>
      have hl := (checkFields_eq_none_iff fields).mp h
      rw [packFields_legal hl]
      exact .packed fields rfl hl
    | some f =>
      rw [packFields_fault h]
      exact .faulted f (checkFields_faultLawful h)
  | sendCommand cmd =>
    refine ⟨_, rfl, ?_⟩
    unfold sendCommand
    split
    · next h => exact commandFrame_effect (by simp) h s
    · next h =>
      refine .faulted _ ?_
      have := mt (isCommand_iff cmd).mpr h
      push Not at this
      exact this
  | writeRegister r v =>
    refine ⟨_, rfl, ?_⟩
    unfold writeRegister
    split
    · next h => exact writeFrame_effect (by simp) h v s
    · next h => exact badIndex_effect h s
  | readBytes count r =>
    refine ⟨_, rfl, ?_⟩
    unfold readBytes
    split
    · next h => exact readCounted_effect (by simp) h count s
    · next h => exact badIndex_effect h s
  | readRegisterUpperHalf r =>
    refine ⟨_, rfl, ?_⟩
    unfold readUpperHalf
    split
    · next h => exact .framed _ _ _ (by simp) (isFrame_read h (by decide) (by decide))
    · next h => exact badIndex_effect h s
  | cfgStart => exact ⟨_, rfl, configure_effect (.inl rfl) _ s⟩
  | cfgWidth => exact ⟨_, rfl, configure_effect (.inr rfl) _ s⟩

end Sys2Proof.Machine
end

