-- ==== Sys2Proof/Laws/HostProtocol.lean ====
section
/-! SUPPORT. The host's measurement cycle run against the block: it reaches `Done` and leaves exactly the seven
frames of R115 and R124 in the log, whatever the peripheral answers; the boot order and a run of the host likewise,
and what the protocol check asks of a log. -/

namespace Sys2Proof.Machine

theorem fieldInWord_of_inWord {p : Config.Place} (h : p.inWord = true) (v : Word) : FieldInWord (fieldAt p v) := by
  simp only [Config.Place.inWord, Bool.and_eq_true, decide_eq_true_iff] at h
  exact ⟨h.1.1.1, h.1.1.2, h.1.2, h.2⟩

theorem valueFits_of_holds {p : Config.Place} {v : Word} (h : p.holds v = true) : ValueFits (fieldAt p v) := by
  simpa [Config.Place.holds, ValueFits, fieldAt] using h

theorem not_shareBit_of_disjoint {p q : Config.Place} (h : p.disjoint q = true) (v w : Word) :
    ¬ ShareBit (fieldAt p v) (fieldAt q w) := by
  simp only [Config.Place.disjoint, Bool.or_eq_true, decide_eq_true_eq] at h
  rintro ⟨h1, h2⟩
  simp only [fieldAt] at h1 h2
  omega

/-- The seven fields with any values that fit meet `PACK`'s contract when the places do (R101). -/
theorem legalFields_config {g : Config.Reg1} (hin : g.places.all Config.Place.inWord = true)
    (hdis : Config.pairwiseDisjoint g.places = true) (hfit : g.valuesFit = true) {v2 v1 : Word}
    (h2 : g.hit2.holds v2 = true) (h1 : g.hit1.holds v1 = true) : LegalFields (configFields g v2 v1) := by
  simp only [Config.Reg1.valuesFit, Bool.and_eq_true] at hfit
  simp only [Config.Reg1.places, Config.pairwiseDisjoint, List.all_cons, List.all_nil, Bool.and_true,
    Bool.and_eq_true] at hin hdis
  obtain ⟨⟨-, f3⟩, f4, f5, f6, f7⟩ : (True ∧ _) ∧ _ ∧ _ ∧ _ ∧ _ :=
    ⟨⟨trivial, hfit.1.1.1.1.2⟩, hfit.1.1.1.2, hfit.1.1.2, hfit.1.2, hfit.2⟩
  refine ⟨?_, ?_, ?_⟩ <;>
    simp only [configFields, List.forall_mem_cons, List.pairwise_cons, List.not_mem_nil, false_imp_iff, implies_true,
      and_true, List.Pairwise.nil]
  · obtain ⟨a1, a2, a3, a4, a5, a6, a7⟩ := hin
    exact ⟨fieldInWord_of_inWord a1 _, fieldInWord_of_inWord a2 _, fieldInWord_of_inWord a3 _,
      fieldInWord_of_inWord a4 _, fieldInWord_of_inWord a5 _, fieldInWord_of_inWord a6 _, fieldInWord_of_inWord a7 _⟩
  · exact ⟨valueFits_of_holds h2, valueFits_of_holds h1, valueFits_of_holds f4, valueFits_of_holds f3,
      valueFits_of_holds f5, valueFits_of_holds f6, valueFits_of_holds f7⟩
  · casesm* _ ∧ _
    refine ⟨⟨?_, ?_, ?_, ?_, ?_, ?_⟩, ⟨?_, ?_, ?_, ?_, ?_⟩, ⟨?_, ?_, ?_, ?_⟩, ⟨?_, ?_, ?_⟩, ⟨?_, ?_⟩, ?_⟩ <;>
      exact not_shareBit_of_disjoint (by assumption) _ _

/-- The fields of a well-formed `REG1` meet `PACK`'s contract in either mode (R101). -/
theorem legalFields_of_wellFormed {g : Config.Reg1} (h : g.wellFormed = true) :
    LegalFields (startFields g) ∧ LegalFields (widthFields g) := by
  simp only [Config.Reg1.wellFormed, Bool.and_eq_true] at h
  obtain ⟨⟨⟨hin, hdis⟩, hfit⟩, -⟩ := h
  have hv := hfit
  simp only [Config.Reg1.valuesFit, Bool.and_eq_true] at hv
  exact ⟨legalFields_config hin hdis hfit hv.1.1.1.1.1.1.2 hv.1.1.1.1.1.1.1.1,
    legalFields_config hin hdis hfit hv.1.1.1.1.1.2 hv.1.1.1.1.1.1.1.2⟩

theorem reg1_wellFormed : Config.reg1.wellFormed = true := by
  unfold Config.reg1
  split
  · assumption
  · decide

theorem configure_legal {fields : List Field} (h : LegalFields fields) (s : State) :
    configure fields s = complete .none (performFrame (writeTx 1#3 (packWord fields)) 0 (loadAcc fields s)) := by
  rw [configure, (checkFields_eq_none_iff fields).mpr h]
  rfl

/-- The state in which a request of the host runs. -/
theorem hostDoes_request {i : Instr} (hd : decode (encode i) = .instr i) {s t : State} (h : PortsIdle s)
    (he : exec i (accept [] { s with pending := [request i] }) = .next t) : hostDoes (request i) s = some t := by
  have hn : notReady { s with pending := [request i] } = none := by simp [notReady, h.1, h.2]
  have hs : step { s with pending := [request i] } = .next t := by
    show presentItem (encode i) [] _ = _
    rw [presentItem, hn, runItem, hd]
    exact he
  rw [hostDoes, hs]

/-- A request that ends `Ok` with one frame: the ports are idle again and the log has one more entry. -/
theorem hostDoes_framed {i : Instr} (hd : decode (encode i) = .instr i) {s : State} (h : PortsIdle s)
    {tx : List Byte} {k : Nat} {v : List Byte → Result} {f : State → State} (hlog : ∀ u, (f u).log = u.log)
    (he : ∀ u, exec i u = .next (complete (v (answers (f u) k)) (performFrame tx k (f u)))) :
    ∃ t rx, hostDoes (request i) s = some t ∧ PortsIdle t ∧ rx.length = k ∧
      t.log = s.log ++ [{ tx := tx, k := k, rx := rx }] ∧ t.response = some (.ok (v rx)) :=
  ⟨_, answers _ k, hostDoes_request hd h (he _), ⟨rfl, by simp⟩, answers_length _ k,
    by rw [complete_log, performFrame_log, hlog]; rfl, rfl⟩

theorem hostDoes_cfgStart {s : State} (h : PortsIdle s) : ∃ t, hostDoes (request .cfgStart) s = some t ∧
    PortsIdle t ∧ t.log = s.log ++ [{ tx := writeTx 1#3 (packWord (startFields Config.reg1)), k := 0, rx := [] }] := by
  obtain ⟨t, rx, ht, hi, hl, hlog, -⟩ := hostDoes_framed (i := .cfgStart) (by decide) h (k := 0)
    (v := fun _ => .none) (f := loadAcc (startFields Config.reg1)) (fun _ => rfl)
    (fun u => congrArg Host.Outcome.next (configure_legal (legalFields_of_wellFormed reg1_wellFormed).1 u))
  exact ⟨t, ht, hi, by rw [hlog, List.length_eq_zero_iff.mp hl]⟩

theorem hostDoes_cfgWidth {s : State} (h : PortsIdle s) : ∃ t, hostDoes (request .cfgWidth) s = some t ∧
    PortsIdle t ∧ t.log = s.log ++ [{ tx := writeTx 1#3 (packWord (widthFields Config.reg1)), k := 0, rx := [] }] := by
  obtain ⟨t, rx, ht, hi, hl, hlog, -⟩ := hostDoes_framed (i := .cfgWidth) (by decide) h (k := 0)
    (v := fun _ => .none) (f := loadAcc (widthFields Config.reg1)) (fun _ => rfl)
    (fun u => congrArg Host.Outcome.next (configure_legal (legalFields_of_wellFormed reg1_wellFormed).2 u))
  exact ⟨t, ht, hi, by rw [hlog, List.length_eq_zero_iff.mp hl]⟩

theorem hostDoes_command {s : State} (h : PortsIdle s) {cmd : Byte} (hc : isCommand cmd = true) :
    ∃ t, hostDoes (request (.sendCommand cmd)) s = some t ∧ PortsIdle t ∧
      t.log = s.log ++ [{ tx := [cmd], k := 0, rx := [] }] := by
  obtain ⟨t, rx, ht, hi, hl, hlog, -⟩ := hostDoes_framed (i := .sendCommand cmd) (by rfl) h (k := 0)
    (v := fun _ => .none) (f := id) (fun _ => rfl)
    (fun u => congrArg Host.Outcome.next (by rw [sendCommand, if_pos hc]; rfl))
  exact ⟨t, ht, hi, by rw [hlog, List.length_eq_zero_iff.mp hl]⟩

theorem hostDoes_upperHalf {s : State} (h : PortsIdle s) {r : RegIndex} (hr : indexLegal r = true) :
    ∃ t rx, hostDoes (request (.readRegisterUpperHalf r)) s = some t ∧ PortsIdle t ∧ rx.length = 4 ∧
      t.log = s.log ++ [{ tx := readTx r, k := 4, rx := rx }] ∧
      t.response = some (.ok (.half (upperHalf (readValue rx)))) :=
  hostDoes_framed (i := .readRegisterUpperHalf r) rfl h (v := fun rx => .half (upperHalf (readValue rx))) (f := id)
    (fun _ => rfl) fun u => by
      show Host.Outcome.next (readUpperHalf r u) = _
      rw [readUpperHalf, if_pos hr, readFrame, performFrame_bus]; rfl

theorem hostDoes_readBytes {s : State} (h : PortsIdle s) {c : Count} {r : RegIndex} (hr : indexLegal r = true)
    (hc : countInRange c = true) :
    ∃ t rx, hostDoes (request (.readBytes c r)) s = some t ∧ PortsIdle t ∧ rx.length = c.toNat ∧
      t.log = s.log ++ [{ tx := readTx r, k := c.toNat, rx := rx }] ∧
      t.response = some (.ok (.word (readValue rx))) :=
  hostDoes_framed (i := .readBytes c r) rfl h (v := fun rx => .word (readValue rx)) (f := id) (fun _ => rfl) fun u => by
    show Host.Outcome.next (readBytes c r u) = _
    rw [readBytes, if_pos hr, readCounted, if_pos hc, readFrame, performFrame_bus]; rfl

theorem hostDoes_write {s : State} (h : PortsIdle s) {r : RegIndex} (hr : indexLegal r = true) (v : Word) :
    ∃ t, hostDoes (request (.writeRegister r v)) s = some t ∧ PortsIdle t ∧
      t.log = s.log ++ [{ tx := writeTx r v, k := 0, rx := [] }] := by
  obtain ⟨t, rx, ht, hi, hl, hlog, -⟩ := hostDoes_framed (i := .writeRegister r v) rfl h (k := 0)
    (v := fun _ => .none) (f := id) (fun _ => rfl)
    (fun u => congrArg Host.Outcome.next (by rw [writeRegister, if_pos hr]; rfl))
  exact ⟨t, ht, hi, by rw [hlog, List.length_eq_zero_iff.mp hl]⟩

theorem hostDoes_wait (n : Nat) (s : State) : hostDoes (.delayUs n) s = some { s with pending := [] } := rfl

/-- A whole measurement cycle (R115 to R121): it ends in `Done`, emits the point of R121, and its seven frames are
those of R124, the start-mode word first. -/
theorem measurementCycle_log {s : State} (h : PortsIdle s) : ∃ q t a b c,
    measurementCycle s = some (q, t) ∧ PortsIdle t ∧ q.phase = .done ∧
      q.point = some (measurementPoint (upperHalf (readValue a)) (upperHalf (readValue b)) (readValue c)) ∧
      t.log = s.log ++
        [{ tx := writeTx 1#3 (packWord (startFields Config.reg1)), k := 0, rx := [] },
         { tx := [Config.opInit], k := 0, rx := [] }, { tx := [Config.opStartTof], k := 0, rx := [] },
         { tx := readTx 0#3, k := 4, rx := a },
         { tx := writeTx 1#3 (packWord (widthFields Config.reg1)), k := 0, rx := [] },
         { tx := readTx 1#3, k := 4, rx := b }, { tx := readTx 4#3, k := 2, rx := c }] := by
  obtain ⟨s1, h1, i1, l1⟩ := hostDoes_cfgStart h
  obtain ⟨s2, h2, i2, l2⟩ := hostDoes_command i1 (cmd := Config.opInit) (by decide)
  obtain ⟨s3, h3, i3, l3⟩ := hostDoes_command i2 (cmd := Config.opStartTof) (by decide)
  obtain ⟨s4, a, h4, i4, -, l4, r4⟩ := hostDoes_upperHalf i3 (r := 0#3) (by decide)
  obtain ⟨s5, h5, i5, l5⟩ := hostDoes_cfgWidth i4
  have i6 : PortsIdle { s5 with pending := [] } := i5
  obtain ⟨s7, b, h7, i7, -, l7, r7⟩ := hostDoes_upperHalf i6 (r := 1#3) (by decide)
  obtain ⟨s8, c, h8, i8, -, l8, r8⟩ := hostDoes_readBytes i7 (c := 2#3) (r := 4#3) (by decide) (by decide)
  refine ⟨Sequencer.mk .done (upperHalf (readValue a)) (upperHalf (readValue b))
    (some (measurementPoint (upperHalf (readValue a)) (upperHalf (readValue b)) (readValue c))), s8, a, b, c, ?_, i8,
    rfl, rfl, ?_⟩
  · simp only [measurementCycle, sequencerRun, sequencerStep, freshSequencer, phaseEvents, hostDoesAll, h1, h2, h3, h4,
      h5, h7, h8, hostDoes_wait, sequencerTakes, readHalf, readWord, r4, r7, r8, Option.map_some]
  · simp [l8, l7, l5, l4, l3, l2, l1, List.append_assoc]

/-- The self-test (R114): one frame, and the mask after it is decided by the byte that frame returned. -/
theorem selfTest_log {s : State} (h : PortsIdle s) (mask : Nat) : ∃ t rx,
    selfTest mask s = some (selfTestMask mask (readValue rx), t) ∧ PortsIdle t ∧ rx.length = 1 ∧
      t.log = s.log ++ [{ tx := readTx 5#3, k := 1, rx := rx }] := by
  obtain ⟨t, rx, ht, hi, hl, hlog, hr⟩ := hostDoes_readBytes h (c := 1#3) (r := 5#3) (by decide) (by decide)
  exact ⟨t, rx, by simp [selfTest, selfTestEvents, hostDoesAll, ht, readWord, hr], hi, hl, hlog⟩

/-- The frames of the boot order (R153), the self-test's answer `rx` among them. -/
def bootEntries (w : StaticWords) (rx : List Byte) : List LogEntry :=
  [{ tx := [Config.opReset], k := 0, rx := [] }, { tx := writeTx 0#3 w.static0, k := 0, rx := [] },
    { tx := writeTx 2#3 w.static2, k := 0, rx := [] }, { tx := writeTx 3#3 w.static3, k := 0, rx := [] },
    { tx := writeTx 5#3 w.static5, k := 0, rx := [] }, { tx := writeTx 6#3 w.static6, k := 0, rx := [] },
    { tx := readTx 5#3, k := 1, rx := rx }]

/-- The boot order (R153): its seven frames, and the mask after its one self-test. -/
theorem boot_log {s : State} (h : PortsIdle s) (w : StaticWords) (d : HostData) : ∃ t rx,
    boot w d s = some ({ d with deviceStateMask := selfTestMask d.deviceStateMask (readValue rx) }, t) ∧
      PortsIdle t ∧ t.log = s.log ++ bootEntries w rx := by
  obtain ⟨s1, h1, i1, l1⟩ := hostDoes_command h (cmd := Config.opReset) (by decide)
  have i1' : PortsIdle { s1 with pending := [] } := i1
  obtain ⟨s2, h2, i2, l2⟩ := hostDoes_write i1' (r := 0#3) (by decide) w.static0
  obtain ⟨s3, h3, i3, l3⟩ := hostDoes_write i2 (r := 2#3) (by decide) w.static2
  obtain ⟨s4, h4, i4, l4⟩ := hostDoes_write i3 (r := 3#3) (by decide) w.static3
  obtain ⟨s5, h5, i5, l5⟩ := hostDoes_write i4 (r := 5#3) (by decide) w.static5
  obtain ⟨s6, h6, i6, l6⟩ := hostDoes_write i5 (r := 6#3) (by decide) w.static6
  obtain ⟨s7, rx, h7, i7, -, l7⟩ := selfTest_log i6 d.deviceStateMask
  have hw : hostDoes (.delayMs Config.tResetMs) s1 = some { s1 with pending := [] } := rfl
  refine ⟨s7, rx, ?_, i7, by simp [bootEntries, l7, l6, l5, l4, l3, l2, l1, List.append_assoc]⟩
  simp only [boot, preparationEvents, staticEvents, hostDoesAll, h1, hw, h2, h3, h4, h5, h6, h7, Option.map_some]

/-- A log is kept by the protocol exactly if each of its frames is the one asked for at its place. -/
theorem keepsProtocol_iff (g : Config.Reg1) (log : List LogEntry) : keepsProtocol g log = true ↔
    ∀ n e, log[n]? = some e → frameKeepsProtocol g e n = true := by
  simp only [keepsProtocol, List.all_eq_true, Prod.forall, List.mem_zipIdx_iff_getElem?]
  exact forall_comm

theorem protocolFrame_cycle (g : Config.Reg1) (m : Nat) {j : Nat} (hj : j < 7) :
    protocolFrame g (7 + 7 * m + j) = (cycleFrames g)[j]? := by
  have hmod : (7 + 7 * m + j - 7) % 7 = j := by omega
  rw [protocolFrame, if_neg (by simp [bootFrames]; omega)]
  exact congrArg (fun i => (cycleFrames g)[i]?) hmod

/-- One measurement cycle of the host: its frames keep the protocol wherever a cycle may begin (R160), one point is
emitted, the mask stays (R154). -/
theorem hostCycle_log {s : State} (h : PortsIdle s) (d : HostData) : ∃ p t es,
    hostCycle d s = some ({ d with points := d.points ++ [p] }, t) ∧ PortsIdle t ∧ t.log = s.log ++ es ∧
      es.length = 7 ∧ ∀ m j e, es[j]? = some e → frameKeepsProtocol Config.reg1 e (7 + 7 * m + j) = true := by
  obtain ⟨q, t, a, b, c, hq, hi, -, hp, hlog⟩ := measurementCycle_log h
  refine ⟨_, t, _, by simp only [hostCycle, hq, hp, Option.map_some]; rfl, hi, hlog, rfl, ?_⟩
  intro m j e he
  have hj : j < 7 := (List.getElem?_eq_some_iff.mp he).1
  rw [frameKeepsProtocol, protocolFrame_cycle _ m hj]
  match j, hj with
  | 0, _ | 1, _ | 2, _ | 3, _ | 4, _ | 5, _ | 6, _ =>
    obtain rfl := Option.some.inj he
    simp [cycleFrames, ExpectedFrame.accepts]

theorem lastWritten_append (r : RegIndex) (log : List LogEntry) (e : LogEntry) :
    lastWritten r (log ++ [e]) = noteFrame r (lastWritten r log) e := by
  simp [lastWritten]

/-- After a `RESET` the host knows nothing of any register (R152). -/
theorem lastWritten_reset (r : RegIndex) (log : List LogEntry) (rx : List Byte) (k : Nat) :
    lastWritten r (log ++ [{ tx := [Config.opReset], k := k, rx := rx }]) = none := by
  simp [lastWritten_append, noteFrame]

/-- After a write the host knows that word (R106). -/
theorem lastWritten_write (r : RegIndex) (v : Word) (log : List LogEntry) (rx : List Byte) (k : Nat) :
    lastWritten r (log ++ [{ tx := writeTx r v, k := k, rx := rx }]) = some v := by
  simp only [lastWritten_append, noteFrame, writeTx, wordBytes, if_true, wordOfBytes_wordBytes]

end Sys2Proof.Machine
end

