-- ==== Sys2Proof/Laws/PerInstr.lean ====
section
/-! SUPPORT. Laws said of each instruction as syntax: the shape of its encoding (R57, R60). -/

namespace Sys2Proof.Laws

/-- The shape of an item: a wire command's bytes are as many as its first byte says (R57), with bytes clocked in
only after a read opcode; a request's selector is not the reserved one (R60). -/
def FrameShape.shaped (item : Item) : Bool :=
  match item with
  | .request q => decide (q.op ≠ 7#3)
  | .wire [] _ => false
  | .wire (b :: rest) k =>
    decide (txLength b = some (rest.length + 1)) &&
      (if b.extractLsb' 3 5 = 0b10110#5 then decide (1 ≤ k) && decide (k ≤ 4) else decide (k = 0))

/-- The encoding of a well-formed instruction has the shape of R57 and R60. -/
def FrameShape.Statement (i : Instr) : Prop := i.wellFormed = true → FrameShape.shaped (encode i) = true

theorem FrameShape.startTof : FrameShape.Statement .startTof := fun _ => by decide
theorem FrameShape.reset : FrameShape.Statement .reset := fun _ => by decide
theorem FrameShape.init : FrameShape.Statement .init := fun _ => by decide
theorem FrameShape.writeReg0 (v : Word) : FrameShape.Statement (.writeReg0 v) := fun _ => rfl
theorem FrameShape.writeReg1 (v : Word) : FrameShape.Statement (.writeReg1 v) := fun _ => rfl
theorem FrameShape.writeReg2 (v : Word) : FrameShape.Statement (.writeReg2 v) := fun _ => rfl
theorem FrameShape.writeReg3 (v : Word) : FrameShape.Statement (.writeReg3 v) := fun _ => rfl
theorem FrameShape.writeReg4 (v : Word) : FrameShape.Statement (.writeReg4 v) := fun _ => rfl
theorem FrameShape.writeReg5 (v : Word) : FrameShape.Statement (.writeReg5 v) := fun _ => rfl
theorem FrameShape.writeReg6 (v : Word) : FrameShape.Statement (.writeReg6 v) := fun _ => rfl
theorem FrameShape.readReg0 : ∀ k : Count, FrameShape.Statement (.readReg0 k) := by
  unfold FrameShape.Statement; decide
theorem FrameShape.readReg1 : ∀ k : Count, FrameShape.Statement (.readReg1 k) := by
  unfold FrameShape.Statement; decide
theorem FrameShape.readReg2 : ∀ k : Count, FrameShape.Statement (.readReg2 k) := by
  unfold FrameShape.Statement; decide
theorem FrameShape.readReg3 : ∀ k : Count, FrameShape.Statement (.readReg3 k) := by
  unfold FrameShape.Statement; decide
theorem FrameShape.readReg4 : ∀ k : Count, FrameShape.Statement (.readReg4 k) := by
  unfold FrameShape.Statement; decide
theorem FrameShape.readReg5 : ∀ k : Count, FrameShape.Statement (.readReg5 k) := by
  unfold FrameShape.Statement; decide
theorem FrameShape.readReg6 : ∀ k : Count, FrameShape.Statement (.readReg6 k) := by
  unfold FrameShape.Statement; decide
theorem FrameShape.pack (fields : List Field) : FrameShape.Statement (.pack fields) := fun _ => rfl
theorem FrameShape.sendCommand (cmd : Byte) : FrameShape.Statement (.sendCommand cmd) := fun _ => rfl
theorem FrameShape.writeRegister (r : RegIndex) (v : Word) : FrameShape.Statement (.writeRegister r v) := fun _ => rfl
theorem FrameShape.readBytes (count : Count) (r : RegIndex) : FrameShape.Statement (.readBytes count r) := fun _ => rfl
theorem FrameShape.readRegisterUpperHalf (r : RegIndex) : FrameShape.Statement (.readRegisterUpperHalf r) :=
  fun _ => rfl
theorem FrameShape.cfgStart : FrameShape.Statement .cfgStart := fun _ => rfl
theorem FrameShape.cfgWidth : FrameShape.Statement .cfgWidth := fun _ => rfl

end Sys2Proof.Laws
end

