-- ==== Sys2Proof/Laws/Plan.lean ====
section
/-! SUPPORT. What an instruction does is fixed by the instruction alone: the state supplies only the peripheral's
answers. So a claim that compares two runs is a case split over four plans. -/

namespace Sys2Proof.Machine

/-- What an instruction does: fault, pack, one frame with a result made of the answer, or one configuration write. -/
inductive Plan where
  | fault (f : BlockFault)
  | pack (fields : List Field)
  | frame (tx : List Byte) (k : Nat) (result : List Byte → Result)
  | configure (fields : List Field)

/-- The state a plan leaves. -/
def runPlan (p : Plan) (s : State) : State :=
  match p with
  | .fault f => raise f s
  | .pack fields => complete (.word (packWord fields)) (loadAcc fields s)
  | .frame tx k result => complete (result (answers s k)) (performFrame tx k s)
  | .configure fields => complete .none (performFrame (writeTx 1#3 (packWord fields)) 0 (loadAcc fields s))

/-- The plan of a single-byte command's frame. -/
def commandPlan (cmd : Byte) : Plan := .frame [cmd] 0 fun _ => .none

/-- The plan of a register write's frame. -/
def writePlan (r : RegIndex) (v : Word) : Plan := .frame (writeTx r v) 0 fun _ => .none

/-- The plan of a counted read. -/
def readPlan (k : Count) (r : RegIndex) : Plan :=
  if countInRange k then .frame (readTx r) k.toNat fun rx => .word (readValue rx) else .fault (.badCount k)

/-- The plan of an operation that checks its index first. -/
def indexedPlan (r : RegIndex) (p : Plan) : Plan := if indexLegal r then p else .fault (.badRegisterIndex r)

/-- The plan of each instruction. -/
def plan (i : Instr) : Plan :=
  match i with
  | .startTof => commandPlan Config.opStartTof
  | .reset => commandPlan Config.opReset
  | .init => commandPlan Config.opInit
  | .writeReg0 v => writePlan 0#3 v
  | .writeReg1 v => writePlan 1#3 v
  | .writeReg2 v => writePlan 2#3 v
  | .writeReg3 v => writePlan 3#3 v
  | .writeReg4 v => writePlan 4#3 v
  | .writeReg5 v => writePlan 5#3 v
  | .writeReg6 v => writePlan 6#3 v
  | .readReg0 k => readPlan k 0#3
  | .readReg1 k => readPlan k 1#3
  | .readReg2 k => readPlan k 2#3
  | .readReg3 k => readPlan k 3#3
  | .readReg4 k => readPlan k 4#3
  | .readReg5 k => readPlan k 5#3
  | .readReg6 k => readPlan k 6#3
  | .pack fields =>
    match checkFields fields with
    | some f => .fault f
    | none => .pack fields
  | .sendCommand cmd => if isCommand cmd then commandPlan cmd else .fault (.badCommand cmd)
  | .writeRegister r v => indexedPlan r (writePlan r v)
  | .readBytes count r => indexedPlan r (readPlan count r)
  | .readRegisterUpperHalf r => indexedPlan r (.frame (readTx r) 4 fun rx => .half (upperHalf (readValue rx)))
  | .cfgStart => .configure (startFields Config.reg1)
  | .cfgWidth => .configure (widthFields Config.reg1)

theorem readCounted_plan (k : Count) (r : RegIndex) (s : State) :
    readCounted k r s = runPlan (readPlan k r) s := by
  unfold readCounted readPlan
  split
  · rw [readFrame, performFrame_bus]; rfl
  · rfl

/-- Every instruction answers the state its plan leaves. -/
theorem exec_plan (i : Instr) (s : State) : exec i s = .next (runPlan (plan i) s) := by
  have read : ∀ k r, Host.Outcome.next (ρ := Refusal) (φ := Fault) (readCounted k r s) =
      .next (runPlan (readPlan k r) s) := fun k r => congrArg _ (readCounted_plan k r s)
  have legal := legalFields_of_wellFormed reg1_wellFormed
  cases i with
  | readReg0 k => exact read k 0#3
  | readReg1 k => exact read k 1#3
  | readReg2 k => exact read k 2#3
  | readReg3 k => exact read k 3#3
  | readReg4 k => exact read k 4#3
  | readReg5 k => exact read k 5#3
  | readReg6 k => exact read k 6#3
  | pack fields =>
    rw [execPack_eq]
    cases h : checkFields fields with
    | some f => rw [packFields_fault h, plan, h]; rfl
    | none => rw [packFields_legal ((checkFields_eq_none_iff fields).mp h), plan, h]; rfl
  | sendCommand cmd =>
    show Host.Outcome.next (sendCommand cmd s) =
      .next (runPlan (if isCommand cmd then commandPlan cmd else .fault (.badCommand cmd)) s)
    by_cases h : isCommand cmd = true
    · rw [sendCommand, if_pos h, if_pos h]; rfl
    · rw [sendCommand, if_neg h, if_neg h]; rfl
  | writeRegister r v =>
    show Host.Outcome.next (writeRegister r v s) = .next (runPlan (indexedPlan r (writePlan r v)) s)
    by_cases h : indexLegal r = true
    · rw [writeRegister, indexedPlan, if_pos h, if_pos h]; rfl
    · rw [writeRegister, indexedPlan, if_neg h, if_neg h]; rfl
  | readBytes count r =>
    show Host.Outcome.next (readBytes count r s) = .next (runPlan (indexedPlan r (readPlan count r)) s)
    by_cases h : indexLegal r = true
    · rw [readBytes, indexedPlan, if_pos h, if_pos h, readCounted_plan]
    · rw [readBytes, indexedPlan, if_neg h, if_neg h]; rfl
  | readRegisterUpperHalf r =>
    show Host.Outcome.next (readUpperHalf r s) =
      .next (runPlan (indexedPlan r (.frame (readTx r) 4 fun rx => .half (upperHalf (readValue rx)))) s)
    by_cases h : indexLegal r = true
    · rw [readUpperHalf, indexedPlan, if_pos h, if_pos h, readFrame, performFrame_bus]; rfl
    · rw [readUpperHalf, indexedPlan, if_neg h, if_neg h]; rfl
  | cfgStart => exact congrArg _ (configure_legal legal.1 s)
  | cfgWidth => exact congrArg _ (configure_legal legal.2 s)
  | startTof => rfl
  | reset => rfl
  | init => rfl
  | writeReg0 v => rfl
  | writeReg1 v => rfl
  | writeReg2 v => rfl
  | writeReg3 v => rfl
  | writeReg4 v => rfl
  | writeReg5 v => rfl
  | writeReg6 v => rfl

end Sys2Proof.Machine
end

