-- ==== Sys2Proof/Tests/Slice0.lean ====
section
/-! SUPPORT. The model's own tests: expected results come from the spec's encodings (30_encoding.md) and test vectors
(95_test_vectors.md), whose names V<n>, P<n> stand in the comments; then one witness for each statement that has
hypotheses. -/

namespace Sys2Proof.Tests

open Sys2Proof.Machine

/-- The block after reset, with answers for the coming reads. -/
def withAnswers (rx : List Byte) : State := { State.reset with rxQueue := rx }

/-- The block after reset, with host events to come. -/
def withEvents (es : List HostEvent) : State := { State.reset with pending := es }

/-- The response an outcome leaves on the port. -/
def responseOf (o : Host.Outcome State Fault Refusal) : Option Response :=
  match o with
  | .next t => t.response
  | .fault _ => none
  | .refused _ => none

/-- The log an outcome leaves. -/
def logOf (o : Host.Outcome State Fault Refusal) : List LogEntry :=
  match o with
  | .next t => t.log
  | .fault _ => []
  | .refused _ => []

/-- The record of faults an outcome leaves. -/
def faultsOf (o : Host.Outcome State Fault Refusal) : List BlockFault :=
  match o with
  | .next t => t.faults
  | .fault _ => []
  | .refused _ => []

-- ---------------------------------------------------------------- well-formedness (smoke)

-- R53: a read command has k = 1 to 4.
theorem test_wellFormed_refuses_count_zero : (Instr.readReg0 0#3).wellFormed = false := by decide
theorem test_wellFormed_refuses_count_five : (Instr.readReg6 5#3).wellFormed = false := by decide
theorem test_wellFormed_accepts_count_four : (Instr.readReg3 4#3).wellFormed = true := by decide
-- R101: both named records are well-formed; V73 and a field outside the word are not.
theorem test_reg1_instances_wellFormed :
    Config.reg1GK.wellFormed = true ∧ Config.reg1T.wellFormed = true := by decide
theorem test_reg1_refuses_equal_modes : ({ Config.reg1T with hit1Width := 3#32 }).wellFormed = false := by decide
theorem test_reg1_refuses_overlap : ({ Config.reg1T with selTsto2 := ⟨12, 9⟩ }).wellFormed = false := by decide
theorem test_reg1_refuses_overflow : ({ Config.reg1GK with hit2Width := 0x19#32 }).wellFormed = false := by decide
theorem test_reg1_refuses_outside_word : ({ Config.reg1GK with hit2 := ⟨29, 4⟩ }).wellFormed = false := by decide

-- ---------------------------------------------------------------- decoding, words written out from the spec

theorem test_decode_startTof : decode (.wire [0b00000001#8] 0) = .instr .startTof := by decide
theorem test_decode_reset : decode (.wire [0b01010000#8] 0) = .instr .reset := by decide
theorem test_decode_init : decode (.wire [0b01110000#8] 0) = .instr .init := by decide
theorem test_decode_writeReg0 : decode (.wire [0b10000000#8, 0x12#8, 0x34#8, 0x56#8, 0x78#8] 0) =
    .instr (.writeReg0 0x12345678#32) := by decide
theorem test_decode_writeReg1 : decode (.wire [0b10000001#8, 0x12#8, 0x34#8, 0x56#8, 0x78#8] 0) =
    .instr (.writeReg1 0x12345678#32) := by decide
theorem test_decode_writeReg2 : decode (.wire [0b10000010#8, 0x12#8, 0x34#8, 0x56#8, 0x78#8] 0) =
    .instr (.writeReg2 0x12345678#32) := by decide
theorem test_decode_writeReg3 : decode (.wire [0b10000011#8, 0x12#8, 0x34#8, 0x56#8, 0x78#8] 0) =
    .instr (.writeReg3 0x12345678#32) := by decide
theorem test_decode_writeReg4 : decode (.wire [0b10000100#8, 0x12#8, 0x34#8, 0x56#8, 0x78#8] 0) =
    .instr (.writeReg4 0x12345678#32) := by decide
theorem test_decode_writeReg5 : decode (.wire [0b10000101#8, 0x12#8, 0x34#8, 0x56#8, 0x78#8] 0) =
    .instr (.writeReg5 0x12345678#32) := by decide
theorem test_decode_writeReg6 : decode (.wire [0b10000110#8, 0x12#8, 0x34#8, 0x56#8, 0x78#8] 0) =
    .instr (.writeReg6 0x12345678#32) := by decide
theorem test_decode_readReg0 : decode (.wire [0b10110000#8] 1) = .instr (.readReg0 1#3) := by decide
theorem test_decode_readReg1 : decode (.wire [0b10110001#8] 2) = .instr (.readReg1 2#3) := by decide
theorem test_decode_readReg2 : decode (.wire [0b10110010#8] 3) = .instr (.readReg2 3#3) := by decide
theorem test_decode_readReg3 : decode (.wire [0b10110011#8] 4) = .instr (.readReg3 4#3) := by decide
theorem test_decode_readReg4 : decode (.wire [0b10110100#8] 1) = .instr (.readReg4 1#3) := by decide
theorem test_decode_readReg5 : decode (.wire [0b10110101#8] 2) = .instr (.readReg5 2#3) := by decide
theorem test_decode_readReg6 : decode (.wire [0b10110110#8] 3) = .instr (.readReg6 3#3) := by decide

/-- A request with every operand field set, to see which are read (R60). -/
def fullRequest (op : Selector) : Request :=
  { op := op, fields := [⟨9, 1, 1#32⟩], cmd := 0x70#8, r := 5#3, value := 0x01020304#32, count := 3#3 }

theorem test_decode_pack : decode (.request (fullRequest 0b000#3)) = .instr (.pack [⟨9, 1, 1#32⟩]) := by decide
theorem test_decode_sendCommand : decode (.request (fullRequest 0b001#3)) = .instr (.sendCommand 0x70#8) := by decide
theorem test_decode_writeRegister :
    decode (.request (fullRequest 0b010#3)) = .instr (.writeRegister 5#3 0x01020304#32) := by decide
theorem test_decode_readBytes : decode (.request (fullRequest 0b011#3)) = .instr (.readBytes 3#3 5#3) := by decide
theorem test_decode_readRegisterUpperHalf :
    decode (.request (fullRequest 0b100#3)) = .instr (.readRegisterUpperHalf 5#3) := by decide
theorem test_decode_cfgStart : decode (.request (fullRequest 0b101#3)) = .instr .cfgStart := by decide
theorem test_decode_cfgWidth : decode (.request (fullRequest 0b110#3)) = .instr .cfgWidth := by decide
theorem test_decode_reserved_selector :
    decode (.request (fullRequest 0b111#3)) = .reject (.badOperation 7#3) := by decide
-- R61: base + 7 is no opcode; a frame has exactly its format's length and count.
theorem test_decode_refuses_index_seven : decode (.wire [0xB7#8] 4) = .reject .notAFrame ∧
    decode (.wire [0x87#8, 0#8, 0#8, 0#8, 0#8] 0) = .reject .notAFrame := by decide
theorem test_decode_refuses_wrong_length : decode (.wire [0x81#8] 0) = .reject .notAFrame ∧
    decode (.wire [0x50#8] 1) = .reject .notAFrame ∧ decode (.wire [0xB0#8] 5) = .reject .notAFrame := by decide

-- The host's table words, and the first step after reset on one of each space.
theorem test_table_words : decodeTableWord 8 0x50 = some .reset ∧ decodeTableWord 8 0x86 = some (.writeReg6 0#32) ∧
    decodeTableWord 8 0xB3 = some (.readReg3 1#3) ∧ decodeTableWord 8 0x87 = none ∧
    decodeTableWord 3 0b101 = some .cfgStart ∧ decodeTableWord 3 0b111 = none := by decide
theorem test_fetch_wire_word :
    logOf (step (State.reset.withFetchWord 8 0x81)) = [⟨[0x81#8, 0#8, 0#8, 0#8, 0#8], 0, []⟩] := by decide
theorem test_fetch_request_word :
    responseOf (step (State.reset.withFetchWord 3 0b000)) = some (.ok (.word 0#32)) := by decide

-- ---------------------------------------------------------------- PACK

-- V6, V7
theorem test_pack_example : responseOf (exec (.pack [⟨28, 4, 1#32⟩, ⟨24, 4, 9#32⟩, ⟨8, 3, 3#32⟩]) State.reset) =
    some (.ok (.word 0x19000300#32)) := by decide
-- V1, V4, V15: the empty list, the full width, a field reaching bit 31
theorem test_pack_corners : responseOf (exec (.pack []) State.reset) = some (.ok (.word 0#32)) ∧
    responseOf (exec (.pack [⟨0, 32, 0xFFFFFFFF#32⟩]) State.reset) = some (.ok (.word 0xFFFFFFFF#32)) ∧
    responseOf (exec (.pack [⟨30, 2, 3#32⟩]) State.reset) = some (.ok (.word 0xC0000000#32)) := by decide
-- V20, V29e; V23, V24, V26, V29c; V27, V29a, V29b
theorem test_pack_overflow : checkFields [⟨0, 4, 16#32⟩] = some (.fieldOverflow 0) ∧
    checkFields [⟨0, 4, 1#32⟩, ⟨0, 4, 16#32⟩] = some (.fieldOverflow 1) := by decide
theorem test_pack_out_of_range : checkFields [⟨0, 0, 0#32⟩] = some (.fieldOutOfRange 0) ∧
    checkFields [⟨0, 33, 0#32⟩] = some (.fieldOutOfRange 0) ∧
    checkFields [⟨31, 2, 0#32⟩] = some (.fieldOutOfRange 0) ∧
    checkFields [⟨0, 4, 1#32⟩, ⟨2, 4, 1#32⟩, ⟨40, 1, 0#32⟩] = some (.fieldOutOfRange 2) := by decide
theorem test_pack_overlap : checkFields [⟨0, 4, 1#32⟩, ⟨3, 4, 1#32⟩] = some (.fieldOverlap 0 1) ∧
    checkFields [⟨0, 8, 1#32⟩, ⟨16, 8, 1#32⟩, ⟨4, 8, 0#32⟩] = some (.fieldOverlap 0 2) ∧
    checkFields [⟨0, 4, 16#32⟩, ⟨2, 4, 1#32⟩] = some (.fieldOverflow 0) ∧
    checkFields [⟨0, 4, 1#32⟩, ⟨4, 4, 1#32⟩] = none := by decide

-- ---------------------------------------------------------------- the command layer

-- V31; V33: a register opcode is no single-byte command
theorem test_sendCommand : logOf (exec (.sendCommand 0x70#8) State.reset) = [⟨[0x70#8], 0, []⟩] := by decide
theorem test_sendCommand_faults : responseOf (exec (.sendCommand 0x81#8) State.reset) =
    some (.fault (.badCommand 0x81#8)) ∧ logOf (exec (.sendCommand 0x81#8) State.reset) = [] := by decide
-- V43; V48
theorem test_writeRegister : logOf (exec (.writeRegister 3#3 0x80000001#32) State.reset) =
    [⟨[0x83#8, 0x80#8, 0x00#8, 0x00#8, 0x01#8], 0, []⟩] := by decide
theorem test_writeRegister_faults : faultsOf (exec (.writeRegister 7#3 0#32) State.reset) = [.badRegisterIndex 7#3] ∧
    logOf (exec (.writeRegister 7#3 0#32) State.reset) = [] := by decide
-- V52, V54, V58; V62, V65
theorem test_readBytes : responseOf (exec (.readBytes 2#3 4#3) (withAnswers [0x02#8, 0x00#8])) =
      some (.ok (.word 0x0200#32)) ∧
    responseOf (exec (.readBytes 3#3 3#3) (withAnswers [1#8, 2#8, 3#8])) = some (.ok (.word 0x010203#32)) ∧
    responseOf (exec (.readBytes 1#3 0#3) (withAnswers [0x80#8])) = some (.ok (.word 0x80#32)) := by decide
theorem test_readBytes_faults : responseOf (exec (.readBytes 5#3 2#3) State.reset) = some (.fault (.badCount 5#3)) ∧
    responseOf (exec (.readBytes 5#3 7#3) State.reset) = some (.fault (.badRegisterIndex 7#3)) := by decide
-- V66, V69: all four bytes are clocked in
theorem test_readRegisterUpperHalf :
    responseOf (exec (.readRegisterUpperHalf 0#3) (withAnswers [0x12#8, 0x34#8, 0xAB#8, 0xCD#8])) =
      some (.ok (.half 0x1234#16)) ∧
    logOf (exec (.readRegisterUpperHalf 0#3) (withAnswers [0x12#8, 0x34#8, 0xAB#8, 0xCD#8])) =
      [⟨[0xB0#8], 4, [0x12#8, 0x34#8, 0xAB#8, 0xCD#8]⟩] := by decide
theorem test_readRegisterUpperHalf_faults :
    responseOf (exec (.readRegisterUpperHalf 7#3) State.reset) = some (.fault (.badRegisterIndex 7#3)) := by decide

-- ---------------------------------------------------------------- the wire commands (44_wire_commands.md)

theorem test_commands : logOf (exec .reset State.reset) = [⟨[0x50#8], 0, []⟩] ∧
    logOf (exec .init State.reset) = [⟨[0x70#8], 0, []⟩] ∧
    logOf (exec .startTof State.reset) = [⟨[0x01#8], 0, []⟩] := by decide
theorem test_writeReg5 : logOf (exec (.writeReg5 0x55000000#32) State.reset) =
    [⟨[0x85#8, 0x55#8, 0#8, 0#8, 0#8], 0, []⟩] := by decide
theorem test_readReg3 : responseOf (exec (.readReg3 3#3) (withAnswers [1#8, 2#8, 3#8])) =
    some (.ok (.word 0x010203#32)) := by decide
theorem test_readReg6 : logOf (exec (.readReg6 1#3) (withAnswers [0xFF#8])) = [⟨[0xB6#8], 1, [0xFF#8]⟩] := by decide

-- ---------------------------------------------------------------- the configurations

-- V70a, V70b, V71a, V71b
theorem test_configure_words : packWord (startFields Config.reg1GK) = 0x19117B00#32 ∧
    packWord (widthFields Config.reg1GK) = 0x9A117B00#32 ∧ packWord (startFields Config.reg1T) = 0x8C315923#32 ∧
    packWord (widthFields Config.reg1T) = 0x8C315935#32 := by decide
theorem test_configure_frame : (configure (startFields Config.reg1GK) State.reset).log =
    [⟨[0x81#8, 0x19#8, 0x11#8, 0x7B#8, 0x00#8], 0, []⟩] := by decide

-- ---------------------------------------------------------------- the step and the host side

-- P5's reserved selector; R132: the next request runs
theorem test_step_reserved_selector :
    responseOf (step (withEvents [.issue (.request (fullRequest 7#3))])) = some (.fault (.badOperation 7#3)) := by decide
theorem test_step_wait : step (withEvents [.delayMs 100]) = .next State.reset := rfl
-- V80 to V85
theorem test_measurementPoint : measurementPoint 0x1234#16 0x5678#16 0x0400#32 = ⟨0x1234#16, 0x5678#16⟩ ∧
    measurementPoint 0x0001#16 0x0405#16 0x0600#32 = ⟨0xFFFF#16, 0xFFFF#16⟩ ∧
    measurementPoint 0xFFFF#16 0x0000#16 0xFDFF#32 = ⟨0xFFFF#16, 0x0000#16⟩ := by decide
/-- The frames of P1, with the static words 0. -/
def bootLog : List LogEntry :=
  [⟨[0x50#8], 0, []⟩, ⟨[0x80#8, 0#8, 0#8, 0#8, 0#8], 0, []⟩, ⟨[0x82#8, 0#8, 0#8, 0#8, 0#8], 0, []⟩,
    ⟨[0x83#8, 0#8, 0#8, 0#8, 0#8], 0, []⟩, ⟨[0x85#8, 0#8, 0#8, 0#8, 0#8], 0, []⟩,
    ⟨[0x86#8, 0#8, 0#8, 0#8, 0#8], 0, []⟩, ⟨[0xB5#8], 1, [0x55#8]⟩]

/-- The frames of P2 with these two writes of register 1. -/
def cycleLog (first second : List Byte) : List LogEntry :=
  [⟨first, 0, []⟩, ⟨[0x70#8], 0, []⟩, ⟨[0x01#8], 0, []⟩, ⟨[0xB0#8], 4, [0x12#8, 0x34#8, 0xAB#8, 0xCD#8]⟩,
    ⟨second, 0, []⟩, ⟨[0xB1#8], 4, [0x56#8, 0x78#8, 0#8, 0#8]⟩, ⟨[0xB4#8], 2, [0#8, 0#8]⟩]

/-- The two register-1 writes of P2 (REG1_GK). -/
def startTx : List Byte := [0x81#8, 0x19#8, 0x11#8, 0x7B#8, 0x00#8]
def widthTx : List Byte := [0x81#8, 0x9A#8, 0x11#8, 0x7B#8, 0x00#8]

-- P1 and P4: a boot and two cycles
theorem test_keepsProtocol :
    keepsProtocol Config.reg1GK (bootLog ++ cycleLog startTx widthTx ++ cycleLog startTx widthTx) = true := by decide
-- R155, R160: a trigger without INIT, width before start, start twice
theorem test_protocolBroken :
    keepsProtocol Config.reg1GK (bootLog ++ [⟨startTx, 0, []⟩, ⟨[0x01#8], 0, []⟩]) = false ∧
    keepsProtocol Config.reg1GK (bootLog ++ cycleLog widthTx startTx) = false ∧
    keepsProtocol Config.reg1GK (bootLog ++ cycleLog startTx startTx) = false := by decide
-- P1 and P1': the read-back decides whether the mask gets the failure bit
theorem test_selfTest : (selfTest 6 (withAnswers [0x55#8])).map (·.1) = some 6 ∧
    (selfTest 6 (withAnswers [0xAA#8])).map (·.1) = some (6 ||| 2 ^ Config.initFailureBit) := ⟨rfl, rfl⟩
theorem test_lastWritten : lastWritten 1#3 [⟨[0x81#8, 1#8, 2#8, 3#8, 4#8], 0, []⟩, ⟨[0x81#8, 5#8, 6#8, 7#8, 8#8], 0, []⟩,
    ⟨[0x82#8, 0#8, 0#8, 0#8, 0#8], 0, []⟩] = some 0x05060708#32 := by decide
-- R152: what was written before a RESET is assumed lost; R106: a write after it counts again
theorem test_lastWritten_reset : lastWritten 1#3 [⟨startTx, 0, []⟩, ⟨[0x50#8], 0, []⟩] = none ∧
    lastWritten 1#3 [⟨startTx, 0, []⟩, ⟨[0x50#8], 0, []⟩, ⟨widthTx, 0, []⟩, ⟨[0x70#8], 0, []⟩] =
      some 0x9A117B00#32 := by decide

-- ---------------------------------------------------------------- witnesses

theorem legal_of_check {fields : List Field} (h : checkFields fields = none) : LegalFields fields :=
  (checkFields_eq_none_iff fields).mp h

theorem witness_decodeOfEncode : (Instr.readReg6 4#3).wellFormed = true ∧ (Instr.readReg0 1#3).wellFormed = true := by
  decide
theorem witness_wireDecoding : decode (.wire [0xB6#8] 4) = .instr (.readReg6 4#3) := by decide
theorem witness_selectors : ∀ op : Selector, (fullRequest op).op = op := by decide
theorem witness_stepRuns : (withEvents [.issue (.wire [0x70#8] 0)]).pending = [.issue (.wire [0x70#8] 0)] ∧
    PortsIdle (withEvents [.issue (.wire [0x70#8] 0)]) ∧ decode (.wire [0x70#8] 0) = .instr .init :=
  ⟨rfl, ⟨rfl, rfl⟩, by decide⟩
theorem witness_reservedSelector : PortsIdle (withEvents [.issue (.request (fullRequest 7#3))]) ∧
    (fullRequest 7#3).op = 7#3 := ⟨⟨rfl, rfl⟩, rfl⟩
theorem witness_waits : (withEvents [.delayMs 100]).pending = [.delayMs 100] ∧
    (withEvents [.delayUs 1]).pending = [.delayUs 1] ∧ State.reset.pending = [] := ⟨rfl, rfl, rfl⟩
theorem witness_concurrent :
    ({ withEvents [.issue (.wire [0x70#8] 0)] with busy := true }).busy = true ∧
    (openFrame (withEvents [.issue (.wire [0x70#8] 0)])).busy = false ∧
    (openFrame (withEvents [.issue (.wire [0x70#8] 0)])).bus.chipSelect = .asserted ∧
    (openFrame (withEvents [.issue (.wire [0x70#8] 0)])).pending = [.issue (.wire [0x70#8] 0)] :=
  ⟨rfl, rfl, rfl, rfl⟩
theorem witness_foreignBytes : PortsIdle (withEvents [.issue (.wire [0xB7#8] 4)]) ∧ ¬ isFrame [0xB7#8] 4 := by
  refine ⟨⟨rfl, rfl⟩, ?_⟩
  rintro ⟨i, h⟩
  rw [test_decode_refuses_index_seven.1] at h
  cases h

theorem witness_packLegal : LegalFields [⟨28, 4, 1#32⟩, ⟨24, 4, 9#32⟩, ⟨8, 3, 3#32⟩] ∧ LegalFields [] ∧
    LegalFields [⟨0, 32, 0xFFFFFFFF#32⟩] :=
  ⟨legal_of_check (by decide), legal_of_check (by decide), legal_of_check (by decide)⟩
theorem witness_packOutOfRange : ¬ FieldInWord ⟨40, 1, 0#32⟩ ∧ FieldInWord ⟨0, 4, 1#32⟩ ∧ FieldInWord ⟨2, 4, 1#32⟩ := by
  simp [FieldInWord]
theorem witness_packOverflow : FieldInWord ⟨0, 4, 16#32⟩ ∧ 2 ^ 4 ≤ (16#32).toNat ∧ (1#32).toNat < 2 ^ 4 := by
  simp [FieldInWord]
theorem witness_packOverlap : ShareBit ⟨0, 8, 1#32⟩ ⟨4, 8, 0#32⟩ ∧ ¬ ShareBit ⟨0, 8, 1#32⟩ ⟨16, 8, 1#32⟩ ∧
    FieldInWord ⟨16, 8, 1#32⟩ ∧ ValueFits ⟨16, 8, 1#32⟩ := by simp [ShareBit, FieldInWord, ValueFits]
theorem witness_packOk : ∃ t, exec (.pack [⟨28, 4, 1#32⟩, ⟨24, 4, 9#32⟩, ⟨8, 3, 3#32⟩]) State.reset = .next t ∧
    t.response = some (.ok (.word 0x19000300#32)) := ⟨_, rfl, test_pack_example⟩
theorem witness_packOrder : LegalFields [⟨28, 4, 1#32⟩, ⟨8, 3, 3#32⟩] ∧
    List.Perm [(⟨28, 4, 1#32⟩ : Field), ⟨8, 3, 3#32⟩] [⟨8, 3, 3#32⟩, ⟨28, 4, 1#32⟩] :=
  ⟨legal_of_check (by decide), List.Perm.swap _ _ _⟩

theorem witness_legalIndex : (6#3 : RegIndex).toNat ≤ 6 ∧ (0#3 : RegIndex).toNat ≤ 6 := by decide
theorem witness_readAssembly : [1#8, 2#8].length = [3#8, 4#8].length ∧ be [1#8, 2#8] = be [1#8, 2#8] := ⟨rfl, rfl⟩
theorem witness_notPack : (∀ fields, Instr.init ≠ .pack fields) ∧ Instr.init ≠ .cfgStart ∧ Instr.init ≠ .cfgWidth ∧
    ∃ t, exec .init State.reset = .next t ∧ t.response = some (.ok .none) :=
  ⟨by simp, by simp, by simp, _, rfl, rfl⟩
theorem witness_readCounts : (1 ≤ (1#3 : Count).toNat ∧ (1#3 : Count).toNat ≤ 4) ∧
    (1 ≤ (4#3 : Count).toNat ∧ (4#3 : Count).toNat ≤ 4) ∧ ((0#3 : Count).toNat < 1) ∧ (4 < (5#3 : Count).toNat) := by
  decide
theorem witness_modesDiffer : ∃ tStart tWidth,
    exec (.pack (aluList Config.reg1GK 1#32 9#32)) State.reset = .next tStart ∧
    tStart.response = some (.ok (.word 0x19117B00#32)) ∧
    exec (.pack (aluList Config.reg1GK 9#32 0xA#32)) State.reset = .next tWidth ∧
    tWidth.response = some (.ok (.word 0x9A117B00#32)) := ⟨_, _, rfl, by decide, rfl, by decide⟩
theorem witness_reg1 : Config.reg1.wellFormed = true := reg1_wellFormed

theorem witness_fault : ∃ t, exec (.writeRegister 7#3 0#32) State.reset = .next t ∧
    t.response = some (.fault (.badRegisterIndex 7#3)) ∧ ∃ u, exec .init State.reset = .next u :=
  ⟨_, rfl, by decide, _, rfl⟩
-- one witness for each fault an instruction raises
theorem witness_faultKinds :
    responseOf (exec (.sendCommand 0x00#8) State.reset) = some (.fault (.badCommand 0x00#8)) ∧
    responseOf (exec (.readRegisterUpperHalf 7#3) State.reset) = some (.fault (.badRegisterIndex 7#3)) ∧
    responseOf (exec (.readBytes 0#3 6#3) State.reset) = some (.fault (.badCount 0#3)) ∧
    responseOf (exec (.pack [⟨32, 1, 0#32⟩]) State.reset) = some (.fault (.fieldOutOfRange 0)) ∧
    responseOf (exec (.pack [⟨28, 4, 16#32⟩]) State.reset) = some (.fault (.fieldOverflow 0)) ∧
    responseOf (exec (.pack [⟨5, 1, 1#32⟩, ⟨0, 32, 0#32⟩]) State.reset) = some (.fault (.fieldOverlap 0 1)) := by decide

-- the codes of the fault table of R130
theorem test_faultCodes :
    [BlockFault.badOperation 7#3, .badCommand 0#8, .badRegisterIndex 7#3, .badCount 0#3, .fieldOutOfRange 0,
      .fieldOverflow 0, .fieldOverlap 0 1].map faultCode = [1, 2, 3, 4, 5, 6, 7] := by decide

theorem witness_invariant : Inv (withEvents [.issue (.wire [0x70#8] 0)]) ∧
    ∃ t, step (withEvents [.issue (.wire [0x70#8] 0)]) = .next t :=
  ⟨⟨⟨rfl, rfl⟩, by simp [withEvents, State.reset], by simp [withEvents, State.reset],
    by simp [LinesShowLastFrame, withEvents, State.reset], by simp [ResponseRecorded, withEvents, State.reset]⟩, _, rfl⟩
theorem witness_timeout : ((0x0200#32).toNat >>> 9) &&& 1 = 1 ∧ ((0xFDFF#32).toNat >>> 9) &&& 1 = 0 := by decide
theorem witness_selfTest : selfTestMask 0 0x55#32 = 0 ∧ (0xAA#32 : Word) ≠ 0x55#32 := ⟨by decide, by decide⟩

theorem witness_hostRuns : PortsIdle State.reset ∧ State.reset.log = [] ∧ PortsIdle (withAnswers [0x55#8]) ∧
    PortsIdle (withAnswers [0xAA#8]) := ⟨⟨rfl, rfl⟩, rfl, ⟨rfl, rfl⟩, ⟨rfl, rfl⟩⟩
theorem witness_protocol : Config.reg1GK.wellFormed = true ∧
    keepsProtocol Config.reg1GK (bootLog ++ cycleLog startTx widthTx) = true ∧
    (bootLog ++ cycleLog startTx widthTx).length = 7 + 7 * 0 + 7 := by decide

end Sys2Proof.Tests
end

section
/-! The state's own statements: what one step can do, said once (`step_effect`), and what every step and every
instruction keeps: the invariant (R16, R50, R61, R80, R130), the history (R17, R131), `ACC` (R10), the answers used
(R14, R38, R50). -/

namespace Sys2Proof.Machine

-- ---------------------------------------------------------------- taking an item

/-- Nothing holds a request back exactly when the ports are idle (R14, R16). -/
theorem notReady_eq_none_iff (s : State) : notReady s = none ↔ PortsIdle s := by
  unfold notReady PortsIdle
  cases s.busy <;> cases s.bus.chipSelect <;> simp

theorem step_issue {s : State} {item : Item} {rest : List HostEvent} (hp : s.pending = .issue item :: rest) :
    step s = presentItem item rest s := by
  rw [step, hp]; rfl

theorem presentItem_notReady {s : State} {f : Fault} (h : notReady s = some f) (item : Item)
    (rest : List HostEvent) : presentItem item rest s = .fault f := by
  rw [presentItem, h]

theorem presentItem_ready {s : State} (h : PortsIdle s) (item : Item) (rest : List HostEvent) :
    presentItem item rest s = runItem item (accept rest s) := by
  rw [presentItem, (notReady_eq_none_iff s).mpr h]

theorem runItem_instr {item : Item} {i : Instr} (h : decode item = .instr i) (s : State) :
    runItem item s = exec i s := by
  rw [runItem, h]

theorem runItem_reject {item : Item} {e : Reject} (h : decode item = .reject e) (s : State) :
    runItem item s = rejectItem e s := by
  rw [runItem, h]

/-- Settles O6: an idle block takes the item, and what the item decodes to is run. -/
theorem stepRunsTheDecodedInstruction : Obligations.StepRunsTheDecodedInstruction := by
  intro s item rest i hp hidle hd
  rw [step_issue hp, presentItem_ready hidle, runItem_instr hd]
  rfl

/-- Settles O9: the two reasons of `notReady` are the two stops (their names are the model's choice, log entry 12). -/
theorem concurrentRequestHasNoStep : Obligations.ConcurrentRequestHasNoStep := by
  intro s item rest hp
  rw [step_issue hp]
  refine ⟨fun hb => presentItem_notReady ?_ item rest, fun ⟨hb, hc⟩ => presentItem_notReady ?_ item rest⟩
  · simp [notReady, hb]
  · simp [notReady, hb, hc]

-- ---------------------------------------------------------------- what the decoder rejects and accepts

theorem writeInstr_ne_badOperation (r : RegIndex) (v : Word) (op : Selector) :
    writeInstr r v ≠ .reject (.badOperation op) := by
  unfold writeInstr
  split_ifs <;> simp

theorem readInstr_ne_badOperation (r : RegIndex) (k : Count) (op : Selector) :
    readInstr r k ≠ .reject (.badOperation op) := by
  unfold readInstr
  split_ifs <;> simp

theorem decodeOneByte_ne_badOperation (b : Byte) (k : Nat) (op : Selector) :
    decodeOneByte b k ≠ .reject (.badOperation op) := by
  unfold decodeOneByte
  split
  · split_ifs <;> simp
  · split
    · exact readInstr_ne_badOperation _ _ _
    · simp

theorem decodeFiveBytes_ne_badOperation (b : Byte) (v : Word) (k : Nat) (op : Selector) :
    decodeFiveBytes b v k ≠ .reject (.badOperation op) := by
  unfold decodeFiveBytes
  split
  · exact writeInstr_ne_badOperation _ _ _
  · simp

/-- Bytes on the wire are never rejected as a request with a bad selector is (R61). -/
theorem decodeWire_ne_badOperation (tx : List Byte) (k : Nat) (op : Selector) :
    decodeWire tx k ≠ .reject (.badOperation op) := by
  unfold decodeWire
  split
  · exact decodeOneByte_ne_badOperation _ _ _
  · exact decodeFiveBytes_ne_badOperation _ _ _ _
  · simp

theorem decodeRequest_badOperation {q : Request} {op : Selector}
    (h : decodeRequest q = .reject (.badOperation op)) : op = 7#3 := by
  unfold decodeRequest at h
  split_ifs at h
  obtain rfl : q.op = op := by simpa using h
  bv_omega

/-- The only selector rejected is the reserved one (R60). -/
theorem decode_badOperation {item : Item} {op : Selector} (h : decode item = .reject (.badOperation op)) :
    op = 7#3 := by
  cases item with
  | request q => exact decodeRequest_badOperation h
  | wire tx k => exact absurd h (decodeWire_ne_badOperation tx k op)

theorem decodeOneByte_count_le {b : Byte} {k : Nat} {i : Instr} (h : decodeOneByte b k = .instr i) : k ≤ 4 := by
  unfold decodeOneByte at h
  split at h
  · omega
  · split at h
    · next hk => exact hk.2
    · cases h

theorem decodeFiveBytes_count_le {b : Byte} {v : Word} {k : Nat} {i : Instr}
    (h : decodeFiveBytes b v k = .instr i) : k ≤ 4 := by
  unfold decodeFiveBytes at h
  split at h
  · omega
  · cases h

/-- A frame of the block clocks in at most four bytes (R53). -/
theorem isFrame_count_le {tx : List Byte} {k : Nat} (h : isFrame tx k) : k ≤ 4 := by
  obtain ⟨i, hd⟩ := h
  change decodeWire tx k = .instr i at hd
  unfold decodeWire at hd
  split at hd
  · exact decodeOneByte_count_le hd
  · exact decodeFiveBytes_count_le hd
  · cases hd

-- ---------------------------------------------------------------- what one step can do

/-- The four things a step that answers a next state can have done. -/
inductive StepEffect (s : State) : State → Prop where
  /-- The host has nothing to do (R14). -/
  | idled (nothing : s.pending = []) : StepEffect s s
  /-- A wait of the host passed (R62). -/
  | waited (e : HostEvent) (rest : List HostEvent) (head : s.pending = e :: rest) : StepEffect s (passTime rest s)
  /-- The reserved selector was answered with its fault (R61, R130). -/
  | rejected (item : Item) (rest : List HostEvent) (head : s.pending = .issue item :: rest) (idle : PortsIdle s)
      (reserved : decode item = .reject (.badOperation 7#3)) :
      StepEffect s (raise (.badOperation 7#3) (accept rest s))
  /-- An instruction was taken and performed to completion (R14, R39). -/
  | performed (item : Item) (rest : List HostEvent) (head : s.pending = .issue item :: rest) (idle : PortsIdle s)
      (i : Instr) (decoded : decode item = .instr i) {t : State} (effect : Effect i (accept rest s) t) :
      StepEffect s t

theorem Effect.of_exec {i : Instr} {s t : State} (h : exec i s = .next t) : Effect i s t := by
  obtain ⟨u, hu, he⟩ := exec_effect i s
  obtain rfl : u = t := Host.Outcome.next.inj (hu.symm.trans h)
  exact he

theorem stepEffect_of_issue {s t : State} {item : Item} {rest : List HostEvent}
    (hp : s.pending = .issue item :: rest) (h : presentItem item rest s = .next t) : StepEffect s t := by
  cases hn : notReady s with
  | some f => rw [presentItem_notReady hn] at h; cases h
  | none =>
    have hidle := (notReady_eq_none_iff s).mp hn
    rw [presentItem_ready hidle] at h
    cases hd : decode item with
    | instr i =>
      rw [runItem_instr hd] at h
      exact .performed item rest hp hidle i hd (.of_exec h)
    | reject e =>
      rw [runItem_reject hd] at h
      cases e with
      | notAFrame => cases h
      | badOperation op =>
        obtain rfl := decode_badOperation hd
        cases h
        exact .rejected item rest hp hidle hd

/-- A step that answers a next state has one of the four effects. -/
theorem step_effect {s t : State} (h : step s = .next t) : StepEffect s t := by
  unfold step at h
  split at h
  · next hp => cases h; exact .idled hp
  · next e rest hp =>
    cases e with
    | issue item => exact stepEffect_of_issue hp h
    | delayMs n => cases h; exact .waited _ rest hp
    | delayUs n => cases h; exact .waited _ rest hp

-- ---------------------------------------------------------------- the invariant

/-- What of the invariant holds during an operation too, when no frame is open: all but the ready port and the
record of the response. -/
structure Settled (s : State) : Prop where
  released : s.bus.chipSelect = .released
  frames : ∀ e ∈ s.log, EntryLawful e
  faults : ∀ f ∈ s.faults, FaultLawful f
  lines : LinesShowLastFrame s

theorem Inv.settled {s : State} (h : Inv s) : Settled s := ⟨h.idle.2, h.frames, h.faults, h.lines⟩

theorem Settled.accept {s : State} (h : Settled s) (rest : List HostEvent) : Settled (accept rest s) :=
  ⟨h.released, h.frames, h.faults, h.lines⟩

theorem Settled.loadAcc {s : State} (h : Settled s) (fields : List Field) : Settled (loadAcc fields s) :=
  ⟨h.released, h.frames, h.faults, h.lines⟩

/-- A frame of the block, answered in full, keeps the log lawful, and the lines show it (R50). -/
theorem Settled.performFrame {s : State} (h : Settled s) {tx : List Byte} {k : Nat} (hf : isFrame tx k) :
    Settled (performFrame tx k s) where
  released := by simp
  frames := by
    rw [performFrame_log, List.forall_mem_append, List.forall_mem_singleton]
    exact ⟨h.frames, hf, answers_length s k⟩
  faults := by simpa using h.faults
  lines := by
    intro e he
    rw [performFrame_log, List.getLast?_concat] at he
    cases he
    simp

/-- An `Ok` answer ends the operation with the invariant. -/
theorem Settled.inv_complete {s : State} (h : Settled s) (v : Result) : Inv (complete v s) where
  idle := ⟨rfl, h.released⟩
  frames := h.frames
  faults := h.faults
  lines := h.lines
  recorded := by
    intro f hf
    simp at hf

/-- A lawful fault ends the operation with the invariant: it stands on the port and last in the record (R131). -/
theorem Settled.inv_raise {s : State} (h : Settled s) {f : BlockFault} (hf : FaultLawful f) : Inv (raise f s) where
  idle := ⟨rfl, h.released⟩
  frames := h.frames
  faults := by
    rw [raise_faults, List.forall_mem_append, List.forall_mem_singleton]
    exact ⟨h.faults, hf⟩
  lines := h.lines
  recorded := by
    intro g hg
    obtain rfl : f = g := by simpa using hg
    simp

/-- Whatever an instruction does, it ends with the invariant. -/
theorem Effect.inv {i : Instr} {s t : State} (he : Effect i s t) (h : Settled s) : Inv t := by
  cases he with
  | faulted f lawful => exact h.inv_raise lawful
  | packed fields _ _ => exact (h.loadAcc fields).inv_complete _
  | framed tx k v _ frame => exact (h.performFrame frame).inv_complete v
  | configured fields _ _ => exact ((h.loadAcc fields).performFrame (isFrame_write (by decide) _)).inv_complete _

theorem Inv.passTime {s : State} (h : Inv s) (rest : List HostEvent) : Inv (passTime rest s) :=
  ⟨h.idle, h.frames, h.faults, h.lines, h.recorded⟩

/-- Settles O45, by the four effects of a step: an operation starts from a settled state and ends with the
invariant. -/
theorem everyStepKeepsTheInvariant : Obligations.EveryStepKeepsTheInvariant := by
  intro s t h hstep
  cases step_effect hstep with
  | idled _ => exact h
  | waited _ rest _ => exact h.passTime rest
  | rejected _ rest _ _ _ => exact (h.settled.accept rest).inv_raise rfl
  | performed _ rest _ _ i _ effect => exact effect.inv (h.settled.accept rest)

/-- Settles O44. -/
theorem invariantHoldsAfterReset : Obligations.InvariantHoldsAfterReset where
  idle := ⟨rfl, rfl⟩
  frames := by simp [State.reset]
  faults := by simp [State.reset]
  lines := by simp [LinesShowLastFrame, State.reset]
  recorded := by simp [ResponseRecorded, State.reset]

/-- Settles O43: the values of `State.reset`. -/
theorem stateAfterReset : Obligations.StateAfterReset := ⟨rfl, rfl, rfl, rfl⟩

-- ---------------------------------------------------------------- the history

/-- An instruction adds one log entry, or one fault, or neither (R17, R131). -/
theorem Effect.history {i : Instr} {s t : State} (he : Effect i s t) :
    ∃ frames faults, t.log = s.log ++ frames ∧ t.faults = s.faults ++ faults ∧ frames.length + faults.length ≤ 1 := by
  cases he with
  | faulted f _ => exact ⟨[], [f], by simp⟩
  | packed fields _ _ => exact ⟨[], [], by simp⟩
  | framed tx k v _ _ => exact ⟨[⟨tx, k, answers s k⟩], [], by simp⟩
  | configured fields _ _ => exact ⟨[⟨writeTx 1#3 (packWord fields), 0, []⟩], [], by simp⟩

/-- Settles O46, by the four effects of a step. -/
theorem historyOnlyGrows : Obligations.HistoryOnlyGrows := by
  intro s t hstep
  cases step_effect hstep with
  | idled _ => exact ⟨[], [], by simp⟩
  | waited _ rest _ => exact ⟨[], [], by simp⟩
  | rejected _ rest _ _ _ => exact ⟨[], [.badOperation 7#3], by simp⟩
  | performed _ rest _ _ i _ effect => exact effect.history

-- ---------------------------------------------------------------- what an instruction writes and reads

/-- Settles O47: of the four effects only packing and configuring write `ACC`. -/
theorem accWrittenByPackAndConfigurationsOnly : Obligations.AccWrittenByPackAndConfigurationsOnly := by
  intro i s t h notPack notStart notWidth
  cases Effect.of_exec h with
  | faulted f _ => rfl
  | packed fields isPack _ => exact absurd isPack (notPack fields)
  | framed tx k v _ _ => simp
  | configured fields isCfg _ => exact absurd isCfg (not_or.mpr ⟨notStart, notWidth⟩)

/-- The next state is the one the instruction's plan leaves. -/
theorem eq_runPlan_of_exec {i : Instr} {s t : State} (h : exec i s = .next t) : t = runPlan (plan i) s :=
  Host.Outcome.next.inj (h.symm.trans (exec_plan i s))

/-- A plan run with another `ACC` differs in `ACC` at most (R10). -/
theorem runPlan_acc (p : Plan) (s : State) (a : Word) :
    ∃ b, runPlan p { s with acc := a } = { runPlan p s with acc := b } := by
  cases p with
  | fault f => exact ⟨a, rfl⟩
  | pack fields => exact ⟨packWord fields, rfl⟩
  | frame tx k result => exact ⟨a, by simp only [runPlan, performFrame_eq]; rfl⟩
  | configure fields => exact ⟨packWord fields, rfl⟩

/-- Settles O48: the plan is the instruction's alone, and a plan does not read `ACC`. -/
theorem noOperationReadsOldAcc : Obligations.NoOperationReadsOldAcc := by
  intro i s t a h
  obtain rfl := eq_runPlan_of_exec h
  obtain ⟨b, hb⟩ := runPlan_acc (plan i) s a
  exact ⟨b, by rw [exec_plan, hb]⟩

/-- A plan run with another history adds to it what it adds to the old one (R13, R17). -/
theorem runPlan_history (p : Plan) (s : State) (log : List LogEntry) (faults : List BlockFault)
    (response : Option Response) :
    runPlan p { s with log := log, faults := faults, response := response } = { runPlan p s with
      log := log ++ (runPlan p s).log.drop s.log.length
      faults := faults ++ (runPlan p s).faults.drop s.faults.length } := by
  cases p with
  | fault f => simp [runPlan, raise, respond]
  | pack fields => simp [runPlan, complete, respond, loadAcc]
  | frame tx k result =>
    simp only [runPlan, performFrame_eq, complete, respond, List.drop_left, List.drop_length, List.append_nil]
    rfl
  | configure fields => simp [runPlan, performFrame_eq, complete, respond, loadAcc]

/-- Settles O49: the plan is the instruction's alone, and a plan only adds to the history. -/
theorem noOperationReadsHistory : Obligations.NoOperationReadsHistory := by
  intro i s t log faults response h
  obtain rfl := eq_runPlan_of_exec h
  rw [exec_plan, runPlan_history]

/-- Settles O50: a fault and a packed word use no answer; a frame uses the at most four it clocks in. -/
theorem instructionsUseOnlyTheirAnswers : Obligations.InstructionsUseOnlyTheirAnswers := by
  intro i s
  obtain ⟨t, ht, he⟩ := exec_effect i s
  cases he with
  | faulted f _ => exact ⟨_, 0, ht, by simp⟩
  | packed fields _ _ => exact ⟨_, 0, ht, by simp⟩
  | framed tx k v _ frame => exact ⟨_, k, ht, by simp [isFrame_count_le frame]⟩
  | configured fields _ _ => exact ⟨_, 0, ht, by simp⟩

end Sys2Proof.Machine
end

section
/-! The encodings (30_encoding.md): decoding undoes encoding and ignores no bit (R51 to R53, R60), the bytes that can
begin a frame (R61, R64), the selectors (R60), the assembly of a read (R56), and the equalities of R63 between the
wire commands, the configurations and the operations they stand for. -/

namespace Sys2Proof

-- ---------------------------------------------------------------- decoding an encoding

/-- A write frame decodes to the write command of its index, with its word (R52, R54, R55). -/
theorem decode_encodeWrite (r : RegIndex) (v : Word) : decode (encodeWrite r v) = writeInstr r v := by
  obtain ⟨upper, index⟩ := writeOpcode_fields r
  show decodeFiveBytes (opcodeByte Config.opWriteRegBase r) (wordOfBytes _ _ _ _) 0 = writeInstr r v
  rw [decodeFiveBytes, if_pos ⟨upper, rfl⟩, index, wordOfBytes_wordBytes]

/-- A read frame with a legal count decodes to the read command of its index, with that count (R53, R54). -/
theorem decode_encodeRead {k : Count} (h : countInRange k = true) (r : RegIndex) :
    decode (encodeRead r k) = readInstr r k := by
  obtain ⟨upper, index⟩ := readOpcode_fields r
  obtain ⟨h1, h4⟩ := (Machine.countInRange_iff k).mp h
  show decodeOneByte (opcodeByte Config.opReadRegBase r) k.toNat = readInstr r k
  rw [decodeOneByte, if_neg (by omega), if_pos ⟨upper, h4⟩, index, BitVec.ofNat_toNat, BitVec.setWidth_eq]

/-- Settles O1: a write or a read goes through its index's opcode byte; the other frames and the requests are
literal. -/
theorem decodeOfEncodeIsIdentity : Obligations.DecodeOfEncodeIsIdentity := by
  intro i h
  cases i with
  | startTof | reset | init => rfl
  | writeReg0 v | writeReg1 v | writeReg2 v | writeReg3 v | writeReg4 v | writeReg5 v | writeReg6 v =>
    exact decode_encodeWrite _ v
  | readReg0 k | readReg1 k | readReg2 k | readReg3 k | readReg4 k | readReg5 k | readReg6 k =>
    exact decode_encodeRead h _
  | pack fields => rfl
  | sendCommand cmd => rfl
  | writeRegister r v => rfl
  | readBytes count r => rfl
  | readRegisterUpperHalf r => rfl
  | cfgStart => rfl
  | cfgWidth => rfl

-- ---------------------------------------------------------------- encoding what was decoded

/-- A write command comes from the frame of its own index and word (R52). -/
theorem encode_of_writeInstr {r : RegIndex} {v : Word} {i : Instr} (h : writeInstr r v = .instr i) :
    i.wellFormed = true ∧ encode i = encodeWrite r v := by
  unfold writeInstr at h
  split_ifs at h <;> (subst r; cases h; exact ⟨rfl, rfl⟩)

/-- A read command comes from the frame of its own index and count (R53). -/
theorem encode_of_readInstr {r : RegIndex} {k : Count} {i : Instr} (hk : countInRange k = true)
    (h : readInstr r k = .instr i) : i.wellFormed = true ∧ encode i = encodeRead r k := by
  unfold readInstr at h
  split_ifs at h <;> (subst r; cases h; exact ⟨hk, rfl⟩)

theorem encode_of_decodeOneByte {b : Byte} {k : Nat} {i : Instr} (h : decodeOneByte b k = .instr i) :
    i.wellFormed = true ∧ encode i = .wire [b] k := by
  unfold decodeOneByte at h
  split at h
  · subst k
    split_ifs at h <;> (subst b; cases h; exact ⟨rfl, rfl⟩)
  · split at h
    · next hk0 hread =>
      obtain ⟨upper, hk4⟩ := hread
      have hk : (BitVec.ofNat 3 k).toNat = k := Nat.mod_eq_of_lt (hk4.trans_lt (by decide))
      have legal : countInRange (BitVec.ofNat 3 k) = true :=
        (Machine.countInRange_iff _).mpr (by rw [hk]; exact ⟨by omega, hk4⟩)
      obtain ⟨wf, henc⟩ := encode_of_readInstr legal h
      exact ⟨wf, by rw [henc, encodeRead, readOpcode_of_fields b upper, hk]⟩
    · cases h

theorem encode_of_decodeFiveBytes {b b3 b2 b1 b0 : Byte} {k : Nat} {i : Instr}
    (h : decodeFiveBytes b (wordOfBytes b3 b2 b1 b0) k = .instr i) :
    i.wellFormed = true ∧ encode i = .wire [b, b3, b2, b1, b0] k := by
  unfold decodeFiveBytes at h
  split at h
  · next hwrite =>
    obtain ⟨upper, rfl⟩ := hwrite
    obtain ⟨wf, henc⟩ := encode_of_writeInstr h
    exact ⟨wf, by rw [henc, encodeWrite, writeOpcode_of_fields b upper, wordBytes_wordOfBytes]⟩
  · cases h

/-- Settles O2: one byte out is a command or a read, five are a write, and no other number is a frame (R57; that
bytes may be presented is the model's, log entry 1). -/
theorem wireDecodingDropsNoBit : Obligations.WireDecodingDropsNoBit := by
  intro tx k i h
  change decodeWire tx k = .instr i at h
  unfold decodeWire at h
  split at h
  · exact encode_of_decodeOneByte h
  · exact encode_of_decodeFiveBytes h
  · cases h

-- ---------------------------------------------------------------- the opcode map

/-- The byte is an opcode of the map: a single-byte command, or a write or a read of a register that exists (R64). -/
def IsOpcode (b : Byte) : Prop :=
  Machine.isCommand b = true ∨ ∃ r : RegIndex, Machine.indexLegal r = true ∧
    (b = opcodeByte Config.opWriteRegBase r ∨ b = opcodeByte Config.opReadRegBase r)

/-- A frame of an instruction begins with an opcode of the map. -/
theorem isOpcode_of_encode {i : Instr} {b : Byte} {rest : List Byte} {k : Nat}
    (h : encode i = .wire (b :: rest) k) : IsOpcode b := by
  cases i with
  | startTof | reset | init => cases h; exact .inl rfl
  | writeReg0 v | writeReg1 v | writeReg2 v | writeReg3 v | writeReg4 v | writeReg5 v | writeReg6 v =>
    cases h; exact .inr ⟨_, rfl, .inl rfl⟩
  | readReg0 k | readReg1 k | readReg2 k | readReg3 k | readReg4 k | readReg5 k | readReg6 k =>
    cases h; exact .inr ⟨_, rfl, .inr rfl⟩
  | pack fields => cases h
  | sendCommand cmd => cases h
  | writeRegister r v => cases h
  | readBytes count r => cases h
  | readRegisterUpperHalf r => cases h
  | cfgStart => cases h
  | cfgWidth => cases h

/-- A byte can begin a frame of this block exactly when it is an opcode of the map (R61, R64). -/
theorem begins_frame_iff_isOpcode (b : Byte) : (∃ rest k, Machine.isFrame (b :: rest) k) ↔ IsOpcode b := by
  constructor
  · rintro ⟨rest, k, i, hd⟩
    exact isOpcode_of_encode (wireDecodingDropsNoBit _ _ i hd).2
  · rintro (hc | ⟨r, hr, rfl | rfl⟩)
    · exact ⟨[], 0, Machine.isFrame_command hc⟩
    · exact ⟨wordBytes 0#32, 0, Machine.isFrame_write hr 0#32⟩
    · exact ⟨[], 1, Machine.isFrame_read hr le_rfl (by decide)⟩

/-- Settles O3: the opcodes of the map are three commands, seven writes and seven reads, checked byte by byte. -/
theorem opcodeMapHasSeventeenBytes : Obligations.OpcodeMapHasSeventeenBytes := by
  intro b
  rw [begins_frame_iff_isOpcode, IsOpcode]
  revert b
  decide

/-- Settles O4: each word is decoded by evaluation. -/
theorem wordsOfTheSpecDecode : Obligations.WordsOfTheSpecDecode := ⟨rfl, rfl, rfl, rfl, rfl⟩

-- ---------------------------------------------------------------- the selectors

/-- Settles O5: with its selector given, the decoding of a request is literal. -/
theorem selectorNamesTheOperation : Obligations.SelectorNamesTheOperation := by
  rintro ⟨op, fields, cmd, r, value, count⟩
  refine ⟨?_, ?_, ?_, ?_, ?_, ?_, ?_, ?_⟩ <;> (rintro rfl; rfl)

/-- The reserved selector is rejected with its own number (R60). -/
theorem decode_reservedSelector {q : Request} (h : q.op = 7#3) :
    decode (.request q) = .reject (.badOperation 7#3) := by
  obtain ⟨-, -, -, -, -, -, -, reserved⟩ := selectorNamesTheOperation q
  exact reserved h

end Sys2Proof

namespace Sys2Proof.Machine

-- ---------------------------------------------------------------- items that are no instruction

/-- Settles O7: the item is taken, and rejecting it raises `BadOperation` (a next state, log entry 11). -/
theorem stepAnswersReservedSelector : Obligations.StepAnswersReservedSelector := by
  intro s q rest hp hidle hop
  rw [step_issue hp, presentItem_ready hidle, runItem_reject (decode_reservedSelector hop)]
  rfl

/-- Bytes that are no frame of this block get the verdict of R61. -/
theorem decode_of_not_isFrame {tx : List Byte} {k : Nat} (h : ¬ isFrame tx k) :
    decode (.wire tx k) = .reject .notAFrame := by
  cases hd : decode (.wire tx k) with
  | instr i => exact absurd ⟨i, hd⟩ h
  | reject e =>
    cases e with
    | notAFrame => rfl
    | badOperation op => exact absurd hd (decodeWire_ne_badOperation tx k op)

/-- Settles O10: the item is taken, and rejecting it is the refusal (the model's choice, log entry 13). -/
theorem foreignBytesAreRefused : Obligations.ForeignBytesAreRefused := by
  intro s tx k rest hp hidle hf
  rw [step_issue hp, presentItem_ready hidle, runItem_reject (decode_of_not_isFrame hf)]
  rfl

-- ---------------------------------------------------------------- the assembly of a read

/-- The assembly is Mathlib's value of the bytes as digits in base 256, the last byte the lowest digit (R56). -/
theorem be_eq_ofDigits (rx : List Byte) : be rx = Nat.ofDigits 256 (rx.map BitVec.toNat).reverse := by
  simp [be, Nat.ofDigits_eq_foldr, List.foldl_map, Nat.add_comm, Nat.mul_comm]

theorem byte_digits_lt (rx : List Byte) : ∀ d ∈ (rx.map BitVec.toNat).reverse, d < 256 := by
  simp only [List.mem_reverse, List.forall_mem_map]
  exact fun b _ => b.isLt

/-- The first byte is the most significant (R56). -/
theorem be_cons (b : Byte) (rx : List Byte) : be (b :: rx) = b.toNat * 2 ^ (8 * rx.length) + be rx := by
  simp only [be_eq_ofDigits, List.map_cons, List.reverse_cons, Nat.ofDigits_append, List.length_reverse,
    List.length_map, Nat.ofDigits_singleton, pow_mul]
  ring

theorem be_lt (rx : List Byte) : be rx < 2 ^ (8 * rx.length) := by
  have h := Nat.ofDigits_lt_base_pow_length (by decide) (byte_digits_lt rx)
  rwa [← be_eq_ofDigits, List.length_reverse, List.length_map, show 256 = 2 ^ 8 from rfl, ← pow_mul] at h

theorem be_injective {rx rx' : List Byte} (hl : rx.length = rx'.length) (h : be rx = be rx') : rx = rx' := by
  rw [be_eq_ofDigits, be_eq_ofDigits] at h
  have digits := Nat.ofDigits_inj_of_len_eq (by decide) (by simpa using hl) (byte_digits_lt rx)
    (byte_digits_lt rx') h
  exact List.map_injective_iff.mpr (fun _ _ => BitVec.eq_of_toNat_eq) (List.reverse_injective digits)

/-- The sum of R56. -/
theorem be_eq_sum (rx : List Byte) :
    be rx = (rx.zipIdx.map fun p => p.1.toNat * 2 ^ (8 * (rx.length - 1 - p.2))).sum := by
  induction rx with
  | nil => rfl
  | cons b rx ih =>
    rw [be_cons, ih, List.zipIdx_cons']
    simp [Function.comp_def, Nat.sub_sub, Nat.add_comm 1]

/-- Settles O26: the sum, the bound and the injectivity of the assembly, one lemma each. -/
theorem readAssemblyIsInjective : Obligations.ReadAssemblyIsInjective :=
  fun rx _ => ⟨be_eq_sum rx, be_lt rx, be_injective⟩

-- ---------------------------------------------------------------- operations whose operand is legal

theorem exec_sendCommand_legal {cmd : Byte} (h : isCommand cmd = true) (s : State) :
    exec (.sendCommand cmd) s = .next (commandFrame cmd s) :=
  congrArg Host.Outcome.next (if_pos h)

theorem exec_writeRegister_legal {r : RegIndex} (h : indexLegal r = true) (v : Word) (s : State) :
    exec (.writeRegister r v) s = .next (writeFrame r v s) :=
  congrArg Host.Outcome.next (if_pos h)

theorem exec_readBytes_legal {r : RegIndex} (h : indexLegal r = true) (k : Count) (s : State) :
    exec (.readBytes k r) s = .next (readCounted k r s) :=
  congrArg Host.Outcome.next (if_pos h)

theorem exec_readRegisterUpperHalf_legal {r : RegIndex} (h : indexLegal r = true) (s : State) :
    exec (.readRegisterUpperHalf r) s =
      .next (complete (.half (upperHalf (readValue (readFrame r 4 s).bus.sampled))) (readFrame r 4 s)) :=
  congrArg Host.Outcome.next (if_pos h)

/-- Settles O33: the operation passes its index or command check, and what it then does is the wire command's
meaning (wire commands as instructions: log entry 1; a read's illegal count: log entry 9). -/
theorem wireCommandsEqualTheirOperations : Obligations.WireCommandsEqualTheirOperations := by
  intro v k s
  have command {cmd : Byte} (h : isCommand cmd = true) := (exec_sendCommand_legal h s).symm
  have write {r : RegIndex} (h : indexLegal r = true) := (exec_writeRegister_legal h v s).symm
  have read {r : RegIndex} (h : indexLegal r = true) := (exec_readBytes_legal h k s).symm
  exact ⟨command rfl, command rfl, command rfl,
    write rfl, write rfl, write rfl, write rfl, write rfl, write rfl, write rfl,
    read rfl, read rfl, read rfl, read rfl, read rfl, read rfl, read rfl⟩

/-- Bits 31 to 16 of a word are its quotient by `2^16` (R56). -/
theorem upperHalf_toNat (w : Word) : (upperHalf w).toNat = w.toNat / 2 ^ 16 := by
  rw [upperHalf, BitVec.extractLsb'_toNat, Nat.shiftRight_eq_div_pow]
  exact Nat.mod_eq_of_lt (by omega)

/-- Settles O27: both reads perform the same four-byte frame and differ in the result alone (from one state, so the
peripheral's answers are the same: log entry 4). -/
theorem upperHalfIsQuotientOfFourByteRead : Obligations.UpperHalfIsQuotientOfFourByteRead := by
  intro r s hr
  have legal := (indexLegal_iff r).mpr hr
  exact ⟨_, _, _, exec_readBytes_legal legal 4#3 s, rfl, exec_readRegisterUpperHalf_legal legal s,
    upperHalf_toNat _⟩

-- ---------------------------------------------------------------- the configurations

/-- A frame and its response do not depend on the response before (R15, R50). -/
theorem complete_performFrame_complete (v v' : Result) (tx : List Byte) (k : Nat) (s : State) :
    complete v' (performFrame tx k (complete v s)) = complete v' (performFrame tx k s) := by
  rw [performFrame_eq, performFrame_eq]
  rfl

/-- Packing a legal list and then writing its word to register index 1 is the configuration with that list (R63). -/
theorem configure_eq_pack_then_write {fields : List Field} (h : LegalFields fields) (s : State) :
    ∃ t w, exec (.pack fields) s = .next t ∧ t.response = some (.ok (.word w)) ∧
      .next (configure fields s) = exec (.writeRegister 1#3 w) t := by
  refine ⟨_, packWord fields, (execPack_eq fields s).trans (congrArg _ (packFields_legal h s)), rfl, ?_⟩
  rw [exec_writeRegister_legal rfl, writeFrame, complete_performFrame_complete, configure_legal h]

/-- Settles O37: both lists of the well-formed `REG1` are legal. -/
theorem configurationsEqualTheirExpansions : Obligations.ConfigurationsEqualTheirExpansions := by
  intro s
  obtain ⟨start, width⟩ := legalFields_of_wellFormed reg1_wellFormed
  exact ⟨configure_eq_pack_then_write start s, configure_eq_pack_then_write width s⟩

end Sys2Proof.Machine
end

section
/-! The Register Field Encoder (40_field_encoder.md): what `PACK` answers to a legal list (R71), which fault it
raises for a list that is not legal (R71, R133), what the packed word is (R72 to R76), and that no later operation
can tell that a `PACK` happened (R77). -/

namespace Sys2Proof.Machine

-- ---------------------------------------------------------------- the parts of legality

theorem LegalFields.inWord {fields : List Field} (h : LegalFields fields) {f : Field} (hf : f ∈ fields) :
    FieldInWord f := h.1 f hf

theorem LegalFields.fits {fields : List Field} (h : LegalFields fields) {f : Field} (hf : f ∈ fields) :
    ValueFits f := h.2.1 f hf

theorem LegalFields.apart {fields : List Field} (h : LegalFields fields) :
    fields.Pairwise fun f g => ¬ ShareBit f g := h.2.2

-- ---------------------------------------------------------------- the answer to a legal list

theorem exec_pack_legal {fields : List Field} (h : LegalFields fields) (s : State) :
    exec (.pack fields) s = .next (complete (.word (packWord fields)) (loadAcc fields s)) := by
  rw [execPack_eq, packFields_legal h]

/-- Settles O11 (that `ACC` keeps the word is the model's choice, log entry 15). -/
theorem packAnswersTheWord : Obligations.PackAnswersTheWord :=
  fun _ s legal => exec_pack_legal legal s

/-- `PACK` answers `Ok` with the packed word, and to legal lists only. -/
theorem legal_and_eq_of_pack_ok {fields : List Field} {s t : State} {w : Word}
    (h : exec (.pack fields) s = .next t) (hw : t.response = some (.ok (.word w))) :
    LegalFields fields ∧ w = packWord fields := by
  cases Effect.of_exec h with
  | faulted f _ => simp at hw
  | packed fields' isPack legal =>
    cases isPack
    exact ⟨legal, by simpa using hw.symm⟩
  | framed tx k v notPack _ => exact absurd rfl (notPack fields)
  | configured fields' isCfg _ => simp at isCfg

-- ---------------------------------------------------------------- the fault of a list that is not legal

theorem exec_pack_fault {fields : List Field} {f : BlockFault} (h : checkFields fields = some f) (s : State) :
    exec (.pack fields) s = .next (raise f s) := by
  rw [execPack_eq, packFields_fault h]

/-- A search finds a position that meets its test when no position before it does. -/
theorem findIdx?_eq_some_of_first {α : Type} {p : α → Bool} {l : List α} {i : Nat} {x : α} (hx : l[i]? = some x)
    (hp : p x = true) (before : ∀ j y, j < i → l[j]? = some y → p y = false) : l.findIdx? p = some i := by
  obtain ⟨hi, rfl⟩ := List.getElem?_eq_some_iff.mp hx
  refine List.findIdx?_eq_some_iff_getElem.mpr ⟨hi, hp, fun j hj => ?_⟩
  simp [before j _ hj (List.getElem?_eq_getElem (hj.trans hi))]

/-- The geometry loop of `PACK` finds nothing when all fields lie in the word. -/
theorem findIdx?_outOfRange_eq_none {fields : List Field} (h : ∀ f ∈ fields, FieldInWord f) :
    fields.findIdx? (fun f => !fieldInRange f) = none :=
  List.findIdx?_eq_none_iff.mpr fun f hf => by simp [(fieldInRange_iff f).mpr (h f hf)]

/-- The value loop of `PACK` finds nothing when all values fit. -/
theorem findIdx?_overflow_eq_none {fields : List Field} (h : ∀ f ∈ fields, ValueFits f) :
    fields.findIdx? (fun f => !fieldFits f) = none :=
  List.findIdx?_eq_none_iff.mpr fun f hf => by simp [(fieldFits_iff f).mpr (h f hf)]

/-- Settles O12: the first loop stops at the first field out of range (a fault as a next state: log entry 11;
offsets and widths as natural numbers: log entry 3). -/
theorem packReportsFirstFieldOutOfRange : Obligations.PackReportsFirstFieldOutOfRange := by
  intro fields s i f hf out before
  have found : fields.findIdx? (fun f => !fieldInRange f) = some i :=
    findIdx?_eq_some_of_first hf (by simpa [← fieldInRange_iff] using out)
      fun j g hj hg => by simp [(fieldInRange_iff g).mpr (before j g hj hg)]
  exact exec_pack_fault (by rw [checkFields, found]) s

/-- Settles O13: the first loop passes, and the second stops at the first value that does not fit (a fault as a next
state: log entry 11). -/
theorem packReportsFirstOverflow : Obligations.PackReportsFirstOverflow := by
  intro fields s i f inWord hf overflow before
  have found : fields.findIdx? (fun f => !fieldFits f) = some i :=
    findIdx?_eq_some_of_first hf (by simpa [fieldFits] using overflow)
      fun j g hj hg => by simp [(fieldFits_iff g).mpr (before j g hj hg)]
  exact exec_pack_fault (by rw [checkFields, findIdx?_outOfRange_eq_none inWord, found]) s

theorem fieldsOverlap_eq_false_iff (f g : Field) : fieldsOverlap f g = false ↔ ¬ ShareBit f g := by
  rw [← fieldsOverlap_iff, Bool.not_eq_true]

/-- The overlap loop stops at the first field when that shares a bit with a later one (R133). -/
theorem firstOverlap_cons_of_found {n d : Nat} {f : Field} {rest : List Field}
    (h : rest.findIdx? (fieldsOverlap f) = some d) : firstOverlap n (f :: rest) = some (n, n + 1 + d) := by
  rw [firstOverlap, h]

/-- The overlap loop goes on to the rest when the first field shares no bit with it (R133). -/
theorem firstOverlap_cons_of_passed {n : Nat} {f : Field} {rest : List Field}
    (h : rest.findIdx? (fieldsOverlap f) = none) : firstOverlap n (f :: rest) = firstOverlap (n + 1) rest := by
  rw [firstOverlap, h]

/-- The overlap loop stops at the first pair that shares a bit, in lexicographic order (R133). -/
theorem firstOverlap_eq_some_of_first {fields : List Field} (n : Nat) {i j : Nat} {f g : Field} (hij : i < j)
    (hf : fields[i]? = some f) (hg : fields[j]? = some g) (share : ShareBit f g)
    (before : ∀ a b fa fb, a < b → (a < i ∨ (a = i ∧ b < j)) → fields[a]? = some fa → fields[b]? = some fb →
      ¬ ShareBit fa fb) :
    firstOverlap n fields = some (n + i, n + j) := by
  induction fields generalizing n i j with
  | nil => simp at hf
  | cons head rest ih =>
    obtain ⟨j, rfl⟩ : ∃ k, j = k + 1 := ⟨j - 1, by omega⟩
    rw [List.getElem?_cons_succ] at hg
    cases i with
    | zero =>
      obtain rfl : head = f := by simpa using hf
      have found : rest.findIdx? (fieldsOverlap head) = some j :=
        findIdx?_eq_some_of_first hg ((fieldsOverlap_iff _ _).mpr share) fun b gb hb hgb =>
          (fieldsOverlap_eq_false_iff _ _).mpr
            (before 0 (b + 1) head gb (by omega) (.inr ⟨rfl, by omega⟩) rfl hgb)
      rw [firstOverlap_cons_of_found found, Nat.add_right_comm, Nat.add_assoc, Nat.add_zero n]
    | succ i =>
      rw [List.getElem?_cons_succ] at hf
      have passed : rest.findIdx? (fieldsOverlap head) = none := by
        refine List.findIdx?_eq_none_iff.mpr fun gb hmem => (fieldsOverlap_eq_false_iff _ _).mpr ?_
        obtain ⟨b, hgb⟩ := List.mem_iff_getElem?.mp hmem
        exact before 0 (b + 1) head gb (by omega) (.inl (by omega)) rfl hgb
      have later := ih (n + 1) (by omega) hf hg fun a b fa fb hab hlex =>
        before (a + 1) (b + 1) fa fb (by omega) (by omega)
      rw [firstOverlap_cons_of_passed passed, later, Nat.add_assoc, Nat.add_comm 1, Nat.add_assoc, Nat.add_comm 1]

/-- Settles O14: the first two loops pass, and the third stops at the first pair that shares a bit (a fault as a next
state: log entry 11). -/
theorem packReportsFirstOverlap : Obligations.PackReportsFirstOverlap := by
  intro fields s i j f g sound hij hf hg share before
  have found := firstOverlap_eq_some_of_first 0 hij hf hg share before
  rw [Nat.zero_add, Nat.zero_add] at found
  refine exec_pack_fault ?_ s
  rw [checkFields, findIdx?_outOfRange_eq_none fun h hh => (sound h hh).1,
    findIdx?_overflow_eq_none fun h hh => (sound h hh).2, found]

-- ---------------------------------------------------------------- the two laws of the packed word

/-- Bit `n` of what shift and mask take out of a word at a field's place (R72). -/
theorem testBit_shiftRight_and_mask (w : Word) (f : Field) (n : Nat) :
    ((w.toNat >>> f.offset) &&& (2 ^ f.width - 1)).testBit n =
      (w.getLsbD (f.offset + n) && decide (n < f.width)) := by
  rw [Nat.testBit_and, Nat.testBit_shiftRight, Nat.testBit_two_pow_sub_one, BitVec.getLsbD]

/-- A word holds a value that fits exactly when the word's bits in the field are the value's (R72). -/
theorem holdsField_iff {f : Field} (fits : ValueFits f) (w : Word) :
    HoldsField w f ↔ ∀ b, BitInField b f → w.getLsbD b = f.value.getLsbD (b - f.offset) := by
  constructor
  · rintro holds b ⟨low, high⟩
    have bit := congrArg (Nat.testBit · (b - f.offset)) holds
    simp only [testBit_shiftRight_and_mask] at bit
    rwa [Nat.add_sub_cancel' low, decide_eq_true (by omega), Bool.and_true] at bit
  · intro same
    refine Nat.eq_of_testBit_eq fun n => ?_
    rw [testBit_shiftRight_and_mask]
    by_cases hn : n < f.width
    · rw [same _ ⟨by omega, by omega⟩, Nat.add_sub_cancel_left, decide_eq_true hn, Bool.and_true, BitVec.getLsbD]
    · have above : f.value.toNat < 2 ^ n := fits.trans_le (Nat.pow_le_pow_right (by decide) (by omega))
      rw [decide_eq_false hn, Bool.and_false, Nat.testBit_lt_two_pow above]

/-- The packed word of a legal list holds each of its fields (R72). -/
theorem holdsField_packWord {fields : List Field} (h : LegalFields fields) {f : Field} (hf : f ∈ fields) :
    HoldsField (packWord fields) f :=
  (holdsField_iff (h.fits hf) _).mpr fun _ hb => packWord_getLsbD_of_mem h hf hb

/-- Settles O15. -/
theorem packedFieldIsRecovered : Obligations.PackedFieldIsRecovered := by
  intro fields s t w h hw f hf
  obtain ⟨legal, rfl⟩ := legal_and_eq_of_pack_ok h hw
  exact holdsField_packWord legal hf

/-- Settles O16. -/
theorem untouchedBitsAreZero : Obligations.UntouchedBitsAreZero := by
  intro fields s t w h hw b _ outside
  obtain ⟨legal, rfl⟩ := legal_and_eq_of_pack_ok h hw
  refine packWord_getLsbD_of_not_mem legal fun f hf => ?_
  rintro ⟨low, high⟩
  rcases outside f hf with below | above <;> omega

/-- A word that holds every field of a legal list and is zero outside them is the packed word (R74): each bit lies in
some field or in none. -/
theorem eq_packWord_of_holdsField {fields : List Field} (h : LegalFields fields) {v : Word}
    (holds : ∀ f ∈ fields, HoldsField v f)
    (zero : ∀ b, b ≤ 31 → (∀ f ∈ fields, ¬ BitInField b f) → v.getLsbD b = false) : v = packWord fields := by
  refine BitVec.eq_of_getLsbD_eq fun b hb => ?_
  by_cases inside : ∃ f ∈ fields, BitInField b f
  · obtain ⟨f, hf, hbf⟩ := inside
    rw [(holdsField_iff (h.fits hf) v).mp (holds f hf) b hbf, packWord_getLsbD_of_mem h hf hbf]
  · have outside : ∀ f ∈ fields, ¬ BitInField b f := fun f hf hbf => inside ⟨f, hf, hbf⟩
    rw [zero b (by omega) outside, packWord_getLsbD_of_not_mem h outside]

/-- The packed word depends on the set of fields alone (R74). -/
theorem packWord_congr_mem {fields fields' : List Field} (same : ∀ f, f ∈ fields' ↔ f ∈ fields) :
    packWord fields' = packWord fields := by
  refine BitVec.eq_of_getLsbD_eq fun b _ => ?_
  rw [packWord_getLsbD, packWord_getLsbD, Bool.eq_iff_iff, List.any_eq_true, List.any_eq_true]
  simp only [same]

/-- Settles O17. -/
theorem packedWordIsUnique : Obligations.PackedWordIsUnique := by
  intro fields s t w h hw
  obtain ⟨legal, rfl⟩ := legal_and_eq_of_pack_ok h hw
  refine ⟨fun v holds zero => eq_packWord_of_holdsField legal holds zero, fun fields' s' t' w' same h' hw' => ?_⟩
  obtain ⟨-, rfl⟩ := legal_and_eq_of_pack_ok h' hw'
  exact packWord_congr_mem same

-- ---------------------------------------------------------------- the order of the fields

theorem ShareBit.symm {f g : Field} (h : ShareBit f g) : ShareBit g f := ⟨h.2, h.1⟩

/-- A permutation of a legal list is legal (R75). -/
theorem LegalFields.perm {fields fields' : List Field} (h : LegalFields fields) (p : fields.Perm fields') :
    LegalFields fields' :=
  ⟨fun _ hf => h.inWord (p.mem_iff.mpr hf), fun _ hf => h.fits (p.mem_iff.mpr hf),
    p.pairwise h.apart fun hn hs => hn hs.symm⟩

/-- Settles O18: the permuted list is legal too, and it has the same set of fields. -/
theorem packIgnoresTheOrder : Obligations.PackIgnoresTheOrder := by
  intro fields fields' s legal p
  have word : packWord fields' = packWord fields := packWord_congr_mem fun _ => p.mem_iff.symm
  refine ⟨_, packWord fields, exec_pack_legal legal s, ?_, rfl⟩
  rw [exec_pack_legal (legal.perm p), loadAcc, loadAcc, word]

-- ---------------------------------------------------------------- the word as a sum

/-- The packed word is the first field's shifted value ORed into the packed word of the rest (R71). -/
theorem packWord_cons (f : Field) (rest : List Field) :
    packWord (f :: rest) = (f.value <<< f.offset) ||| packWord rest := by
  refine BitVec.eq_of_getLsbD_eq fun b _ => ?_
  rw [BitVec.getLsbD_or, packWord_getLsbD, packWord_getLsbD, List.any_cons]

/-- A legal field's value is shifted without losing a bit (R76). -/
theorem shifted_toNat {f : Field} (inWord : FieldInWord f) (fits : ValueFits f) :
    (f.value <<< f.offset).toNat = f.value.toNat * 2 ^ f.offset := by
  obtain ⟨-, -, -, hend⟩ := inWord
  have bound : f.value.toNat * 2 ^ f.offset < 2 ^ 32 :=
    calc f.value.toNat * 2 ^ f.offset
      _ < 2 ^ f.width * 2 ^ f.offset := Nat.mul_lt_mul_of_pos_right fits (Nat.two_pow_pos _)
      _ = 2 ^ (f.offset + f.width) := by rw [← pow_add, Nat.add_comm]
      _ ≤ 2 ^ 32 := Nat.pow_le_pow_right (by decide) hend
  rw [BitVec.toNat_shiftLeft, Nat.shiftLeft_eq, Nat.mod_eq_of_lt bound]

theorem LegalFields.tail {f : Field} {rest : List Field} (h : LegalFields (f :: rest)) : LegalFields rest :=
  ⟨fun _ hg => h.inWord (.tail _ hg), fun _ hg => h.fits (.tail _ hg), h.apart.tail⟩

/-- The first field of a legal list has no bit in common with the packed word of the rest (R76). -/
theorem shifted_and_packWord_eq_zero {f : Field} {rest : List Field} (h : LegalFields (f :: rest)) :
    (f.value <<< f.offset) &&& packWord rest = 0#32 := by
  refine BitVec.eq_of_getLsbD_eq fun b _ => ?_
  rw [BitVec.getLsbD_and, BitVec.getLsbD_zero, Bool.and_eq_false_imp]
  intro hb
  obtain ⟨⟨low, high⟩, -⟩ := (shifted_getLsbD (h.inWord (.head _)) (h.fits (.head _)) b).mp hb
  refine packWord_getLsbD_of_not_mem h.tail fun g hg => ?_
  rintro ⟨low', high'⟩
  exact List.rel_of_pairwise_cons h.apart hg ⟨by omega, by omega⟩

/-- The packed word of a legal list is the sum of its shifted values (R76): ORing words without a common bit is
adding them. -/
theorem packWord_toNat {fields : List Field} (h : LegalFields fields) :
    (packWord fields).toNat = (fields.map fun f => f.value.toNat * 2 ^ f.offset).sum := by
  induction fields with
  | nil => rfl
  | cons f rest ih =>
    have apart := shifted_and_packWord_eq_zero h
    rw [packWord_cons, ← BitVec.add_eq_or_of_and_eq_zero _ _ apart, BitVec.toNat_add_of_and_eq_zero apart,
      shifted_toNat (h.inWord (.head _)) (h.fits (.head _)), ih h.tail, List.map_cons, List.sum_cons]

/-- Settles O19. -/
theorem packedWordIsTheSum : Obligations.PackedWordIsTheSum := by
  intro fields s t w h hw
  obtain ⟨legal, rfl⟩ := legal_and_eq_of_pack_ok h hw
  exact packWord_toNat legal

-- ---------------------------------------------------------------- what a PACK leaves to see

/-- Two states agree on what an instruction's outcome can depend on: the bus, the log and the peripheral's
answers. -/
structure SameSurroundings (s t : State) : Prop where
  bus : t.bus = s.bus
  log : t.log = s.log
  rxQueue : t.rxQueue = s.rxQueue
  rxDraws : t.rxDraws = s.rxDraws
  fillDraws : t.fillDraws = s.fillDraws

/-- In states with the same surroundings a plan has the same response, bus and log (R77). -/
theorem SameSurroundings.runPlan {s t : State} (h : SameSurroundings s t) (p : Plan) :
    (runPlan p t).response = (runPlan p s).response ∧ (runPlan p t).bus = (runPlan p s).bus ∧
      (runPlan p t).log = (runPlan p s).log := by
  obtain ⟨hbus, hlog, hqueue, hdraws, hfill⟩ := h
  cases p with
  | fault f => exact ⟨rfl, hbus, hlog⟩
  | pack fields => exact ⟨rfl, hbus, hlog⟩
  | frame tx k result =>
    have hanswers := answers_congr hqueue hdraws k
    have hbytes := fillBytes_congr hfill k
    simp [Machine.runPlan, hanswers, hbytes, hlog]
  | configure fields => simp [Machine.runPlan, hlog]

/-- `PACK` leaves its surroundings and the host's events as they are (R77). -/
theorem packFields_sameSurroundings (fields : List Field) (s : State) :
    SameSurroundings s (packFields fields s) ∧ (packFields fields s).pending = s.pending := by
  unfold packFields
  split <;> exact ⟨⟨rfl, rfl, rfl, rfl, rfl⟩, rfl⟩

/-- The response of `PACK` is its list's alone (R77). -/
theorem packFields_response (fields : List Field) (s s' : State) :
    (packFields fields s).response = (packFields fields s').response := by
  unfold packFields
  split <;> rfl

/-- Settles O20: a later instruction finds the surroundings it would have found without the `PACK`. -/
theorem packIsPure : Obligations.PackIsPure := by
  intro fields s s'
  obtain ⟨same, pending⟩ := packFields_sameSurroundings fields s
  refine ⟨_, _, execPack_eq fields s, execPack_eq fields s', packFields_response fields s s', same.bus, same.log,
    same.rxQueue, same.rxDraws, same.fillDraws, pending, fun j => ?_⟩
  exact ⟨_, _, exec_plan j s, exec_plan j _, same.runPlan (plan j)⟩

end Sys2Proof.Machine
end

section
/-! The Opcode Command Layer (41_command_layer.md): the whole next state of `SEND_COMMAND` (R81), `WRITE_REGISTER`
(R85), `READ_BYTES` (R86) and `READ_REGISTER_UPPER_HALF` (R87), legal operand or not, what a write frame carries
(R89), and that every instruction but `PACK` performs one frame when it ends `Ok` and none when it faults (R80). -/

namespace Sys2Proof.Machine

-- ---------------------------------------------------------------- operations whose operand is illegal

theorem exec_sendCommand_illegal {cmd : Byte} (h : ¬ isCommand cmd = true) (s : State) :
    exec (.sendCommand cmd) s = .next (raise (.badCommand cmd) s) :=
  congrArg Host.Outcome.next (if_neg h)

theorem exec_writeRegister_illegal {r : RegIndex} (h : ¬ indexLegal r = true) (v : Word) (s : State) :
    exec (.writeRegister r v) s = .next (raise (.badRegisterIndex r) s) :=
  congrArg Host.Outcome.next (if_neg h)

theorem exec_readBytes_illegal {r : RegIndex} (h : ¬ indexLegal r = true) (k : Count) (s : State) :
    exec (.readBytes k r) s = .next (raise (.badRegisterIndex r) s) :=
  congrArg Host.Outcome.next (if_neg h)

theorem exec_readRegisterUpperHalf_illegal {r : RegIndex} (h : ¬ indexLegal r = true) (s : State) :
    exec (.readRegisterUpperHalf r) s = .next (raise (.badRegisterIndex r) s) :=
  congrArg Host.Outcome.next (if_neg h)

theorem readCounted_illegal {k : Count} (h : ¬ countInRange k = true) (r : RegIndex) (s : State) :
    readCounted k r s = raise (.badCount k) s := if_neg h

-- ---------------------------------------------------------------- the frames of the layer as next states

/-- A single-byte command's frame: one log entry and the lines; nothing else changes (R51, R81). -/
theorem commandFrame_eq (cmd : Byte) (s : State) :
    commandFrame cmd s = { s with
      busy := false
      response := some (.ok .none)
      bus := { chipSelect := .released, driven := [cmd], sampled := [] }
      log := s.log ++ [{ tx := [cmd], k := 0, rx := [] }] } := rfl

/-- A register write's frame: one log entry and the lines; nothing else changes (R52, R85). -/
theorem writeFrame_eq (r : RegIndex) (v : Word) (s : State) :
    writeFrame r v s = { s with
      busy := false
      response := some (.ok .none)
      bus := { chipSelect := .released, driven := writeBytesOf 0x80#8 r v, sampled := [] }
      log := s.log ++ [{ tx := writeBytesOf 0x80#8 r v, k := 0, rx := [] }] } := rfl

/-- A register read's frame and its response (R53). -/
theorem complete_readFrame (v : Result) (r : RegIndex) (k : Nat) (s : State) :
    complete v (readFrame r k s) = afterRead (0xB0#8 + r.zeroExtend 8) k v s := by
  rw [readFrame, performFrame_eq]
  rfl

/-- The bytes a read has sampled are the peripheral's answers (R50). -/
theorem readFrame_sampled (r : RegIndex) (k : Nat) (s : State) : (readFrame r k s).bus.sampled = answers s k := by
  rw [readFrame, performFrame_bus]

-- ---------------------------------------------------------------- the value of a read

/-- The assembly of the peripheral's answers is the sum of R56. -/
theorem be_answers (k : Nat) (s : State) : be (answers s k) = answerValue k s := by
  have indexed : (answers s k).zipIdx = (List.range k).map fun i => (answer s i, i) :=
    List.ext_getElem (by simp) (by simp [answers])
  rw [be_eq_sum, answers_length, indexed, List.map_map, answerValue]
  rfl

theorem readValue_answers (k : Nat) (s : State) :
    readValue (answers s k) = BitVec.ofNat 32 (answerValue k s) := by
  rw [readValue, be_answers]

theorem readCounted_legal {k : Count} (h : countInRange k = true) (r : RegIndex) (s : State) :
    readCounted k r s =
      afterRead (0xB0#8 + r.zeroExtend 8) k.toNat (.word (BitVec.ofNat 32 (answerValue k.toNat s))) s := by
  rw [readCounted, if_pos h, readFrame_sampled, readValue_answers, complete_readFrame]

/-- Bits 31 to 16 of a four-byte read are its first two bytes (R56, R87). -/
theorem upperHalf_readValue (a b c d : Byte) :
    upperHalf (readValue [a, b, c, d]) = BitVec.ofNat 16 (a.toNat * 256 + b.toNat) := by
  refine BitVec.eq_of_toNat_eq ?_
  have assembled : be [a, b, c, d] = ((a.toNat * 256 + b.toNat) * 256 + c.toNat) * 256 + d.toNat := by simp [be]
  rw [upperHalf_toNat, readValue, assembled, BitVec.toNat_ofNat, BitVec.toNat_ofNat]
  omega

-- ---------------------------------------------------------------- the four operations

/-- Settles O21: a command passes the check and is sent, any other byte is raised as a fault (the lines: log entry 5; a
fault as a next state: log entry 11). -/
theorem sendCommandEffect : Obligations.SendCommandEffect := by
  refine ⟨fun q selector => ?_, fun cmd s => ?_⟩
  · obtain ⟨-, send, -⟩ := selectorNamesTheOperation q
    exact send selector
  · split_ifs with h
    · rw [exec_sendCommand_legal ((isCommand_iff cmd).mpr h), commandFrame_eq]
    · exact exec_sendCommand_illegal (mt (isCommand_iff cmd).mp h) s

/-- Settles O22: the legal index is written, index 7 is raised as a fault (the lines: log entry 5; a fault as a next
state: log entry 11). -/
theorem writeRegisterEffect : Obligations.WriteRegisterEffect := by
  refine ⟨fun q selector => ?_, fun r v s => ?_⟩
  · obtain ⟨-, -, write, -⟩ := selectorNamesTheOperation q
    exact write selector
  · split_ifs with h
    · rw [exec_writeRegister_legal ((indexLegal_iff r).mpr h), writeFrame_eq]
    · exact exec_writeRegister_illegal (mt (indexLegal_iff r).mp h) v s

/-- Settles O23: the index is checked, then the count, and the sampled bytes are the answers (log entry 4; the lines:
log entry 5; a fault as a next state: log entry 11). -/
theorem readBytesEffect : Obligations.ReadBytesEffect := by
  refine ⟨fun q selector => ?_, fun k r s => ?_⟩
  · obtain ⟨-, -, -, read, -⟩ := selectorNamesTheOperation q
    exact read selector
  · split_ifs with badIndex badCount
    · exact exec_readBytes_illegal (mt (indexLegal_iff r).mp (by omega)) k s
    · have legal := (indexLegal_iff r).mpr (not_lt.mp badIndex)
      rw [exec_readBytes_legal legal, readCounted_illegal (mt (countInRange_iff k).mp (by omega))]
      rfl
    · have legal := (indexLegal_iff r).mpr (not_lt.mp badIndex)
      rw [exec_readBytes_legal legal, readCounted_legal ((countInRange_iff k).mpr (by omega))]

/-- Settles O24: of the four answers (log entry 4) the upper half keeps the first two (the lines: log entry 5; a fault
as a next state: log entry 11). -/
theorem readUpperHalfEffect : Obligations.ReadUpperHalfEffect := by
  refine ⟨fun q selector => ?_, fun r s => ?_⟩
  · obtain ⟨-, -, -, -, upper, -⟩ := selectorNamesTheOperation q
    exact upper selector
  · split_ifs with h
    · rw [exec_readRegisterUpperHalf_legal ((indexLegal_iff r).mpr h), readFrame_sampled, complete_readFrame]
      exact congrArg (fun half => Host.Outcome.next (afterRead _ 4 (.half half) s)) (upperHalf_readValue _ _ _ _)
    · exact exec_readRegisterUpperHalf_illegal (mt (indexLegal_iff r).mp h) s

-- ---------------------------------------------------------------- what a write frame carries

/-- The opcode of a write carries the index: the 8-bit addition of R54 does not wrap. -/
theorem writeOpcode_toNat : ∀ r : RegIndex, (0x80#8 + r.zeroExtend 8).toNat = 0x80 + r.toNat := by decide

/-- The data bytes of a write carry the value, the first the most significant (R52, R55). -/
theorem dataBytes_toNat (v : Word) :
    (v.extractLsb' 24 8).toNat * 2 ^ 24 + (v.extractLsb' 16 8).toNat * 2 ^ 16 + (v.extractLsb' 8 8).toNat * 2 ^ 8 +
      (v.extractLsb' 0 8).toNat = v.toNat := by
  simp only [BitVec.extractLsb'_toNat, Nat.shiftRight_eq_div_pow]
  omega

/-- Settles O25: the opcode carries the index and the four data bytes the value. -/
theorem writeFrameRoundTrips : Obligations.WriteFrameRoundTrips := by
  intro r v s hr
  exact ⟨_, _, _, _, _, exec_writeRegister_legal ((indexLegal_iff r).mpr hr) v s, _, rfl, writeOpcode_toNat r,
    dataBytes_toNat v⟩

-- ---------------------------------------------------------------- one frame or none

/-- A response accounts for the bus: `Ok` after exactly one more frame of this block, answered in full, with the chip
select released; a fault with the bus and the log as they were (R80, R131). -/
def AccountsForBus (s t : State) (r : Response) : Prop :=
  (∀ v, r = .ok v → t.bus.chipSelect = .released ∧ ∃ e, t.log = s.log ++ [e] ∧ EntryLawful e) ∧
    (∀ f, r = .fault f → t.bus = s.bus ∧ t.log = s.log)

theorem accountsForBus_raise (f : BlockFault) (s : State) : AccountsForBus s (raise f s) (.fault f) :=
  ⟨nofun, fun _ _ => ⟨rfl, rfl⟩⟩

/-- One frame, performed from a state with the same log, ends `Ok` accounted for. -/
theorem accountsForBus_complete_performFrame {s s' : State} (sameLog : s'.log = s.log) {tx : List Byte} {k : Nat}
    (frame : isFrame tx k) (v : Result) : AccountsForBus s (complete v (performFrame tx k s')) (.ok v) := by
  refine ⟨fun _ _ => ⟨by simp, ⟨tx, k, answers s' k⟩, ?_, frame, answers_length s' k⟩, nofun⟩
  rw [complete_log, performFrame_log, sameLog]

/-- Settles O28: of the four effects only packing ends `Ok` without a frame (wire commands as instructions: log
entry 1). -/
theorem oneOperationOneFrame : Obligations.OneOperationOneFrame := by
  intro i s notPack
  obtain ⟨t, ht, effect⟩ := exec_effect i s
  cases effect with
  | faulted f _ => exact ⟨_, _, ht, rfl, accountsForBus_raise f s⟩
  | packed fields isPack _ => exact absurd isPack (notPack fields)
  | framed tx k v _ frame => exact ⟨_, _, ht, rfl, accountsForBus_complete_performFrame rfl frame v⟩
  | configured fields _ _ =>
    exact ⟨_, _, ht, rfl, accountsForBus_complete_performFrame rfl (isFrame_write rfl (packWord fields)) .none⟩

end Sys2Proof.Machine
end

section
/-! The ALU Mode Configurator (42_alu_mode.md): which records are well-formed (R101), what `CFG_START` and `CFG_WIDTH`
do (R102, R103), and where their two words differ (R104). -/

namespace Sys2Proof.Machine

-- ---------------------------------------------------------------- legal lists and their places

/-- Where a field lies (R101). -/
def placeOf (f : Field) : Config.Place := ⟨f.offset, f.width⟩

theorem inWord_placeOf_iff (f : Field) : (placeOf f).inWord = true ↔ FieldInWord f := by
  simp only [Config.Place.inWord, Bool.and_eq_true, decide_eq_true_iff, and_assoc]
  rfl

theorem disjoint_placeOf_iff (f g : Field) : (placeOf f).disjoint (placeOf g) = true ↔ ¬ ShareBit f g := by
  simp only [Config.Place.disjoint, Bool.or_eq_true, decide_eq_true_iff]
  simp only [placeOf, ShareBit]
  omega

theorem holds_fieldAt_iff (p : Config.Place) (v : Word) : p.holds v = true ↔ ValueFits (fieldAt p v) := by
  simp [Config.Place.holds, ValueFits, fieldAt]

theorem pairwiseDisjoint_iff (ps : List Config.Place) :
    Config.pairwiseDisjoint ps = true ↔ ps.Pairwise fun p q => p.disjoint q = true := by
  induction ps with
  | nil => simp [Config.pairwiseDisjoint]
  | cons p rest ih => rw [Config.pairwiseDisjoint, Bool.and_eq_true, List.all_eq_true, ih, List.pairwise_cons]

/-- A list is legal exactly if its places lie in the word, no two of them share a bit, and its values fit (R71,
R101). -/
theorem legalFields_iff_places (fields : List Field) :
    LegalFields fields ↔ (fields.map placeOf).all Config.Place.inWord = true ∧
      Config.pairwiseDisjoint (fields.map placeOf) = true ∧ ∀ f ∈ fields, ValueFits f := by
  rw [List.all_eq_true, List.forall_mem_map, pairwiseDisjoint_iff, List.pairwise_map]
  simp only [inWord_placeOf_iff, disjoint_placeOf_iff]
  exact and_congr_right fun _ => and_comm

-- ---------------------------------------------------------------- well-formed records

/-- The nine values of a record fit their fields exactly if those of the start-mode list and those of the width-mode
list do (R101 (c)). -/
theorem valuesFit_iff (g : Config.Reg1) :
    g.valuesFit = true ↔ (∀ f ∈ startFields g, ValueFits f) ∧ ∀ f ∈ widthFields g, ValueFits f := by
  simp only [Config.Reg1.valuesFit, Bool.and_eq_true, holds_fieldAt_iff, startFields, widthFields, configFields,
    List.forall_mem_cons]
  tauto

theorem modesDiffer_iff (g : Config.Reg1) :
    g.modesDiffer = true ↔ g.hit1Start ≠ g.hit1Width ∧ g.hit2Start ≠ g.hit2Width := by
  rw [Config.Reg1.modesDiffer, Bool.and_eq_true, decide_eq_true_iff, decide_eq_true_iff]

theorem modes_ne_of_wellFormed {g : Config.Reg1} (h : g.wellFormed = true) :
    g.hit1Start ≠ g.hit1Width ∧ g.hit2Start ≠ g.hit2Width :=
  (modesDiffer_iff g).mp (Bool.and_eq_true_iff.mp h).2

/-- Settles O34: the two lists have the record's seven places and between them its nine values. -/
theorem wellFormedReg1IsWhatPackAccepts : Obligations.WellFormedReg1IsWhatPackAccepts := by
  intro g
  constructor
  · intro wf
    obtain ⟨start, width⟩ := legalFields_of_wellFormed wf
    exact ⟨start, width, modes_ne_of_wellFormed wf⟩
  · rintro ⟨start, width, modes⟩
    obtain ⟨inWord, apart, startFits⟩ := (legalFields_iff_places (startFields g)).mp start
    obtain ⟨-, -, widthFits⟩ := (legalFields_iff_places (widthFields g)).mp width
    have fits := (valuesFit_iff g).mpr ⟨startFits, widthFits⟩
    simp only [Config.Reg1.wellFormed, Bool.and_eq_true]
    exact ⟨⟨⟨inWord, apart⟩, fits⟩, (modesDiffer_iff g).mpr modes⟩

-- ---------------------------------------------------------------- the two configurations

/-- A configuration with a legal list leaves the list's packed word in `ACC` and in register index 1's frame (R102,
R103). -/
theorem configure_eq_afterConfigure {fields : List Field} (h : LegalFields fields) (s : State) :
    configure fields s = afterConfigure (packWord fields) s := by
  rw [configure_legal h]
  rfl

/-- `PACK` answers a legal list with the word the configuration with that list writes (R102, R103). -/
theorem configure_writes_pack_answer {fields : List Field} (h : LegalFields fields) (s : State) :
    ∃ t w, exec (.pack fields) s = .next t ∧ t.response = some (.ok (.word w)) ∧
      .next (configure fields s) = (.next (afterConfigure w s) : Host.Outcome State Fault Refusal) :=
  ⟨_, packWord fields, exec_pack_legal h s, rfl, congrArg _ (configure_eq_afterConfigure h s)⟩

/-- Settles O35: the start-mode list of the well-formed `REG1` (log entry 6) is legal (the lines: log entry 5; `ACC`
kept: log entry 15). -/
theorem cfgStartWritesTheStartWord : Obligations.CfgStartWritesTheStartWord := by
  refine ⟨fun q selector => ?_, configure_writes_pack_answer (legalFields_of_wellFormed reg1_wellFormed).1⟩
  obtain ⟨-, -, -, -, -, start, -⟩ := selectorNamesTheOperation q
  exact start selector

/-- Settles O36: the width-mode list of the well-formed `REG1` (log entry 6) is legal (the lines: log entry 5; `ACC`
kept: log entry 15). -/
theorem cfgWidthWritesTheWidthWord : Obligations.CfgWidthWritesTheWidthWord := by
  refine ⟨fun q selector => ?_, configure_writes_pack_answer (legalFields_of_wellFormed reg1_wellFormed).2⟩
  obtain ⟨-, -, -, -, -, -, width, -⟩ := selectorNamesTheOperation q
  exact width selector

-- ---------------------------------------------------------------- where the two words differ

/-- Outside its first field the packed word of a legal list is that of the rest (R73). -/
theorem packWord_cons_getLsbD_of_outside {f : Field} {rest : List Field} (h : LegalFields (f :: rest)) {b : Nat}
    (outside : ¬ BitInField b f) : (packWord (f :: rest)).getLsbD b = (packWord rest).getLsbD b := by
  have clear : (f.value <<< f.offset).getLsbD b = false :=
    Bool.eq_false_of_not_eq_true fun set =>
      outside ((shifted_getLsbD (h.inWord (.head _)) (h.fits (.head _)) b).mp set).1
  rw [packWord_cons, BitVec.getLsbD_or, clear, Bool.false_or]

/-- Outside HIT1 and HIT2 a configuration word is that of the five other fields, whatever the values of the two
(R104). -/
theorem packWord_configFields_getLsbD_of_outside {g : Config.Reg1} {hit2 hit1 : Word}
    (h : LegalFields (configFields g hit2 hit1)) {b : Nat} (outside1 : ¬ BitInField b (fieldAt g.hit1 hit1))
    (outside2 : ¬ BitInField b (fieldAt g.hit2 hit2)) :
    (packWord (configFields g hit2 hit1)).getLsbD b = (packWord ((configFields g hit2 hit1).drop 2)).getLsbD b :=
  (packWord_cons_getLsbD_of_outside h outside2).trans (packWord_cons_getLsbD_of_outside h.tail outside1)

/-- Settles O38: both words hold their own lists' fields, and the two lists are the same from the third field on. -/
theorem modesDifferInHitFieldsOnly : Obligations.ModesDifferInHitFieldsOnly := by
  intro g s tStart tWidth wStart wWidth wf hStart answerStart hWidth answerWidth
  obtain ⟨start, rfl⟩ := legal_and_eq_of_pack_ok hStart answerStart
  obtain ⟨width, rfl⟩ := legal_and_eq_of_pack_ok hWidth answerWidth
  obtain ⟨hit1, hit2⟩ := modes_ne_of_wellFormed wf
  refine ⟨fun b outside1 outside2 => ?_, holdsField_packWord start (.tail _ (.head _)),
    holdsField_packWord width (.tail _ (.head _)), hit1, holdsField_packWord start (.head _),
    holdsField_packWord width (.head _), hit2, fun f hf => ⟨?_, ?_⟩⟩
  · exact (packWord_configFields_getLsbD_of_outside start outside1 outside2).trans
      (packWord_configFields_getLsbD_of_outside width outside1 outside2).symm
  · exact holdsField_packWord start (List.mem_of_mem_drop hf)
  · exact holdsField_packWord width (.tail _ (.tail _ hf))

end Sys2Proof.Machine
end

section
/-! The host's sequences (43_host_sequences.md): the self-test's mask (R114), the point a cycle emits (R113, R121,
R123), and the order the protocol asks of a log (R124, R155, R160). -/

namespace Sys2Proof.Machine

-- ---------------------------------------------------------------- the self-test

theorem selfTestMask_expected (mask : Nat) : selfTestMask mask selfTestExpected = mask := if_pos rfl

/-- A mismatch sets the failure bit and no other (R114). -/
theorem selfTestMask_testBit_of_mismatch {b : Word} (h : b ≠ selfTestExpected) (mask n : Nat) :
    (selfTestMask mask b).testBit n = (mask.testBit n || decide (n = Config.initFailureBit)) := by
  rw [selfTestMask, if_neg h, Nat.testBit_or, Nat.testBit_two_pow, decide_eq_decide.mpr eq_comm]

/-- Settles O52: a match keeps the mask, a mismatch ORs in one power of two (the bit number is free: log entry 10). -/
theorem selfTestSetsTheFailureBitOnMismatch : Obligations.SelfTestSetsTheFailureBitOnMismatch := by
  intro mask b
  constructor
  · rintro rfl
    exact selfTestMask_expected mask
  · exact fun mismatch => selfTestMask_testBit_of_mismatch mismatch mask

/-- A read of at most four bytes loses nothing in its 32-bit value (R15, R56). -/
theorem readValue_toNat {rx : List Byte} (h : rx.length ≤ 4) : (readValue rx).toNat = be rx := by
  have bound : 2 ^ (8 * rx.length) ≤ 2 ^ 32 := Nat.pow_le_pow_right (by decide) (by omega)
  rw [readValue, BitVec.toNat_ofNat, Nat.mod_eq_of_lt ((be_lt rx).trans_le bound)]

/-- Two bytes with one value are one byte (R56). -/
theorem readValue_singleton_injective {b c : Byte} (h : readValue [b] = readValue [c]) : b = c := by
  have value := congrArg BitVec.toNat h
  rw [readValue_toNat (by simp), readValue_toNat (by simp)] at value
  exact List.singleton_inj.mp (be_injective rfl value)

/-- Settles O53: the run reads one byte, and the rule for a read-back decides the mask at that byte's value (the answer:
log entry 4; the bit number is free: log entry 10). -/
theorem selfTestReadsOneByteAndSetsTheMask : Obligations.SelfTestReadsOneByteAndSetsTheMask := by
  intro mask s idle
  obtain ⟨t, rx, run, -, oneByte, log⟩ := selfTest_log idle mask
  obtain ⟨b, rfl⟩ := List.length_eq_one_iff.mp oneByte
  obtain ⟨kept, set⟩ := selfTestSetsTheFailureBitOnMismatch mask (readValue [b])
  refine ⟨_, t, b, run, log, ?_, fun mismatch => set fun value => mismatch (readValue_singleton_injective value)⟩
  rintro rfl
  exact kept rfl

-- ---------------------------------------------------------------- the emitted point

/-- The checker's verdict is bit 9 of the status (R113). -/
theorem statusTimeout_toNat (status : Word) : (statusTimeout status).toNat = (status.toNat >>> 9) &&& 1 := by
  rw [statusTimeout, BitVec.getLsbD, Nat.toNat_testBit, Nat.and_one_is_mod, Nat.shiftRight_eq_div_pow]

/-- Settles O51: bit 9 set is the branch of the sentinel, bit 9 clear that of the values read (the host side: log
entry 10). -/
theorem timeoutSubstitutesTheSentinel : Obligations.TimeoutSubstitutesTheSentinel := by
  intro start width status
  rw [← statusTimeout_toNat]
  exact ⟨fun set => if_pos (Bool.toNat_eq_one.mp set), fun clear => if_neg (by simp [Bool.toNat_eq_zero.mp clear])⟩

-- ---------------------------------------------------------------- the order of a cycle

theorem wordBytes_injective {v w : Word} (h : wordBytes v = wordBytes w) : v = w := by
  simp only [wordBytes, List.cons.injEq, and_true] at h
  obtain ⟨h3, h2, h1, h0⟩ := h
  rw [← wordOfBytes_wordBytes v, h3, h2, h1, h0, wordOfBytes_wordBytes]

/-- The two modes of a well-formed record write different words: HIT2 holds a different code in each (R104). -/
theorem packWord_modes_ne {g : Config.Reg1} (wf : g.wellFormed = true) :
    packWord (startFields g) ≠ packWord (widthFields g) := by
  intro same
  obtain ⟨start, width⟩ := legalFields_of_wellFormed wf
  have inStart : HoldsField (packWord (startFields g)) (fieldAt g.hit2 g.hit2Start) :=
    holdsField_packWord start (.head _)
  have inWidth : HoldsField (packWord (widthFields g)) (fieldAt g.hit2 g.hit2Width) :=
    holdsField_packWord width (.head _)
  rw [← same] at inWidth
  exact (modes_ne_of_wellFormed wf).2 (BitVec.eq_of_toNat_eq (inStart.symm.trans inWidth))

/-- In a log that keeps the protocol, entry `j` of a cycle is the frame asked for at that place. -/
theorem accepts_of_keepsProtocol {g : Config.Reg1} {log : List LogEntry} (keeps : keepsProtocol g log = true) (m : Nat)
    {j : Nat} {f : ExpectedFrame} (hf : (cycleFrames g)[j]? = some f) {e : LogEntry}
    (he : log[7 + 7 * m + j]? = some e) : f.accepts e = true := by
  have hj : j < 7 := (List.getElem?_eq_some_iff.mp hf).1
  have kept := (keepsProtocol_iff g log).mp keeps _ e he
  rwa [frameKeepsProtocol, protocolFrame_cycle g m hj, hf] at kept

theorem ExpectedFrame.accepts_sent_iff (tx : List Byte) (e : LogEntry) :
    (ExpectedFrame.sent tx).accepts e = true ↔ e.tx = tx ∧ e.k = 0 := by
  simp [ExpectedFrame.accepts]

theorem ExpectedFrame.accepts_read_iff (r : RegIndex) (k : Nat) (e : LogEntry) :
    (ExpectedFrame.read r k).accepts e = true ↔ e.tx = readTx r ∧ e.k = k := by
  simp [ExpectedFrame.accepts]

/-- Settles O55: each of a cycle's seven places asks for its own frame, and the two configuration words differ (the
check on the log is the model's reading: log entry 10). -/
theorem protocolFixesTheOrderOfACycle : Obligations.ProtocolFixesTheOrderOfACycle := by
  intro g log m wf keeps
  have sent {j : Nat} {tx : List Byte} (place : (cycleFrames g)[j]? = some (.sent tx)) :
      ∀ e, log[7 + 7 * m + j]? = some e → e.tx = tx :=
    fun e he => ((ExpectedFrame.accepts_sent_iff tx e).mp (accepts_of_keepsProtocol keeps m place he)).1
  have read {j k : Nat} {r : RegIndex} (place : (cycleFrames g)[j]? = some (.read r k)) :
      ∀ e, log[7 + 7 * m + j]? = some e → e.tx = readTx r ∧ e.k = k :=
    fun e he => (ExpectedFrame.accepts_read_iff r k e).mp (accepts_of_keepsProtocol keeps m place he)
  have differ : writeTx 1#3 (packWord (startFields g)) ≠ writeTx 1#3 (packWord (widthFields g)) :=
    fun same => packWord_modes_ne wf (wordBytes_injective (List.cons.inj same).2)
  exact ⟨differ, sent (j := 0) rfl, sent rfl, sent rfl, read (r := 0#3) rfl, sent rfl, read (r := 1#3) rfl,
    read (r := 4#3) rfl⟩

end Sys2Proof.Machine
end

section
/-! The wire commands (44_wire_commands.md): the whole next state of the three single-byte commands (R170 to R172),
the seven register writes (R173 to R179) and the seven register reads with a `k` from 1 to 4 (R180 to R186). Each is
the command layer's frame of its own opcode or register index. -/

namespace Sys2Proof.Machine

/-- Settles O31: a legal count passes the one check of the counted read, at each of the seven indices (the answers:
log entry 4; the lines: log entry 5; wire commands as instructions: log entry 1). -/
theorem registerReadFrames : Obligations.RegisterReadFrames := by
  intro k s one_le le_four
  have legal : countInRange k = true := (countInRange_iff k).mpr ⟨one_le, le_four⟩
  have read (r : RegIndex) := congrArg (Host.Outcome.next (φ := Fault) (ρ := Refusal)) (readCounted_legal legal r s)
  exact ⟨read 0#3, read 1#3, read 2#3, read 3#3, read 4#3, read 5#3, read 6#3⟩

/-- Settles O29: each command is the single-byte frame of its opcode (the lines: log entry 5; wire commands as
instructions: log entry 1). -/
theorem singleByteCommandFrames : Obligations.SingleByteCommandFrames := by
  intro s
  have sent (cmd : Byte) := congrArg (Host.Outcome.next (φ := Fault) (ρ := Refusal)) (commandFrame_eq cmd s)
  exact ⟨sent Config.opReset, sent Config.opInit, sent Config.opStartTof⟩

/-- Settles O30: each write is the five-byte frame of its index (the lines: log entry 5; wire commands as
instructions: log entry 1). -/
theorem registerWriteFrames : Obligations.RegisterWriteFrames := by
  intro v s
  have written (r : RegIndex) := congrArg (Host.Outcome.next (φ := Fault) (ρ := Refusal)) (writeFrame_eq r v s)
  exact ⟨written 0#3, written 1#3, written 2#3, written 3#3, written 4#3, written 5#3, written 6#3⟩

end Sys2Proof.Machine
end

section
/-! The faults (60_exceptions.md): an instruction that faults leaves nothing but its response and the record (R131),
the next one does what it would have done (R132), and each fault comes from its operation on its operands (R130). -/

namespace Sys2Proof.Machine

-- ---------------------------------------------------------------- a fault leaves no trace

/-- Only the plan of a fault answers it: the other plans end `Ok`. -/
theorem eq_fault_of_runPlan_response {p : Plan} {s : State} {f : BlockFault}
    (h : (runPlan p s).response = some (.fault f)) : p = .fault f := by
  cases p with
  | fault g =>
    obtain rfl : g = f := by simpa [runPlan] using h
    rfl
  | pack fields => simp [runPlan] at h
  | frame tx k result => simp [runPlan] at h
  | configure fields => simp [runPlan] at h

/-- An instruction that answers a fault has that fault's plan. -/
theorem plan_eq_fault_of_exec {i : Instr} {s t : State} {f : BlockFault} (h : exec i s = .next t)
    (hf : t.response = some (.fault f)) : plan i = .fault f :=
  eq_fault_of_runPlan_response (eq_runPlan_of_exec h ▸ hf)

/-- An instruction that answers a fault has raised it and done nothing else (R131). -/
theorem eq_raise_of_exec {i : Instr} {s t : State} {f : BlockFault} (h : exec i s = .next t)
    (hf : t.response = some (.fault f)) : t = raise f s := by
  rw [eq_runPlan_of_exec h, plan_eq_fault_of_exec h hf]
  rfl

/-- Settles O40: the next state is that of raising the fault (a fault as a next state: log entry 11). -/
theorem faultLeavesNoTrace : Obligations.FaultLeavesNoTrace :=
  fun _ _ _ _ h hf => eq_raise_of_exec h hf

-- ---------------------------------------------------------------- the next instruction after a fault

/-- A plan run after a fault leaves what it would have left without it, the fault standing in the record before what
the plan adds (R132). -/
theorem runPlan_raise (p : Plan) (f : BlockFault) (s : State) :
    runPlan p (raise f s) = { runPlan p s with
      faults := s.faults ++ f :: (runPlan p s).faults.drop s.faults.length } := by
  cases p with
  | fault g => simp [runPlan, raise, respond]
  | pack fields => simp [runPlan, raise, complete, respond, loadAcc]
  | frame tx k result =>
    simp only [runPlan, performFrame_eq, raise, complete, respond, List.drop_length]
    rfl
  | configure fields => simp [runPlan, performFrame_eq, raise, complete, respond, loadAcc]

/-- Settles O41: the first instruction has only raised its fault, and the second one's plan is its own alone (the
record in the state: log entry 11). -/
theorem faultIsForgottenByTheBlock : Obligations.FaultIsForgottenByTheBlock := by
  intro i j s t u f ht hf hu
  obtain rfl := eq_raise_of_exec ht hf
  obtain rfl := eq_runPlan_of_exec hu
  rw [exec_plan, runPlan_raise]

-- ---------------------------------------------------------------- what the faults of PACK report

/-- A search that finds a position has found an entry there that meets its test. -/
theorem exists_getElem?_of_findIdx? {α : Type} {p : α → Bool} {l : List α} {n : Nat} (h : l.findIdx? p = some n) :
    ∃ x, l[n]? = some x ∧ p x = true := by
  obtain ⟨hn, hp, -⟩ := List.findIdx?_eq_some_iff_getElem.mp h
  exact ⟨l[n], List.getElem?_eq_getElem hn, hp⟩

/-- The overlap loop reports two positions of the list, the earlier first, whose fields share a bit (R133). -/
theorem shareBit_of_firstOverlap {fields : List Field} {start : Nat} {p : Nat × Nat}
    (h : firstOverlap start fields = some p) :
    ∃ n m f g, p = (start + n, start + m) ∧ n < m ∧ fields[n]? = some f ∧ fields[m]? = some g ∧ ShareBit f g := by
  induction fields generalizing start with
  | nil => cases h
  | cons f rest ih =>
    cases found : rest.findIdx? (fieldsOverlap f) with
    | some d =>
      obtain ⟨g, hg, overlap⟩ := exists_getElem?_of_findIdx? found
      obtain rfl : (start, start + 1 + d) = p := Option.some.inj ((firstOverlap_cons_of_found found).symm.trans h)
      exact ⟨0, d + 1, f, g, by rw [Nat.add_right_comm]; rfl, d.succ_pos, rfl, hg, (fieldsOverlap_iff f g).mp overlap⟩
    | none =>
      rw [firstOverlap_cons_of_passed found] at h
      obtain ⟨n, m, f', g, rfl, hnm, hf, hg, share⟩ := ih h
      exact ⟨n + 1, m + 1, f', g, by simp only [Nat.add_assoc, Nat.add_comm 1], by omega, hf, hg, share⟩

/-- What a fault of the field checks says of the list: the field or pair at the reported place violates the condition
the fault names (R71, R130). -/
inductive Violation (fields : List Field) : BlockFault → Prop where
  | outOfRange {n : Nat} {g : Field} (place : fields[n]? = some g) (outside : ¬ FieldInWord g) :
      Violation fields (.fieldOutOfRange n)
  | overflow {n : Nat} {g : Field} (place : fields[n]? = some g) (tooLarge : ¬ ValueFits g) :
      Violation fields (.fieldOverflow n)
  | overlap {n m : Nat} {g h : Field} (order : n < m) (first : fields[n]? = some g) (second : fields[m]? = some h)
      (share : ShareBit g h) : Violation fields (.fieldOverlap n m)

theorem violation_of_checkFields {fields : List Field} {f : BlockFault} (h : checkFields fields = some f) :
    Violation fields f := by
  unfold checkFields at h
  split at h
  · next n found =>
    cases h
    obtain ⟨g, place, outside⟩ := exists_getElem?_of_findIdx? found
    exact .outOfRange place (by simpa [← fieldInRange_iff] using outside)
  · split at h
    · next n found =>
      cases h
      obtain ⟨g, place, tooLarge⟩ := exists_getElem?_of_findIdx? found
      exact .overflow place (by simpa [← fieldFits_iff] using tooLarge)
    · split at h
      · next p found =>
        cases h
        obtain ⟨n, m, g, g', rfl, order, first, second, share⟩ := shareBit_of_firstOverlap found
        rw [Nat.zero_add, Nat.zero_add]
        exact .overlap order first second share
      · cases h

-- ---------------------------------------------------------------- which instruction raises which fault

/-- A counted read faults on its count only. -/
theorem readPlan_eq_fault {k : Count} {r : RegIndex} {f : BlockFault} (h : readPlan k r = .fault f) :
    ¬ countInRange k = true ∧ f = .badCount k := by
  unfold readPlan at h
  split at h
  · cases h
  · next illegal =>
    cases h
    exact ⟨illegal, rfl⟩

/-- An operation that checks its index first faults on the index, or on a legal index with the fault that follows. -/
theorem indexedPlan_eq_fault {r : RegIndex} {p : Plan} {f : BlockFault} (h : indexedPlan r p = .fault f) :
    (¬ indexLegal r = true ∧ f = .badRegisterIndex r) ∨ (indexLegal r = true ∧ p = .fault f) := by
  unfold indexedPlan at h
  split at h
  · next legal => exact .inr ⟨legal, h⟩
  · next illegal =>
    cases h
    exact .inl ⟨illegal, rfl⟩

/-- The instructions that fault, with the operands on which they do (R130). -/
inductive FaultCause : Instr → BlockFault → Prop where
  | command {cmd : Byte} (illegal : ¬ isCommand cmd = true) : FaultCause (.sendCommand cmd) (.badCommand cmd)
  | writeIndex {r : RegIndex} (v : Word) (illegal : ¬ indexLegal r = true) :
      FaultCause (.writeRegister r v) (.badRegisterIndex r)
  | readIndex {r : RegIndex} (k : Count) (illegal : ¬ indexLegal r = true) :
      FaultCause (.readBytes k r) (.badRegisterIndex r)
  | upperHalfIndex {r : RegIndex} (illegal : ¬ indexLegal r = true) :
      FaultCause (.readRegisterUpperHalf r) (.badRegisterIndex r)
  | count {k : Count} {r : RegIndex} (legal : indexLegal r = true) (illegal : ¬ countInRange k = true) :
      FaultCause (.readBytes k r) (.badCount k)
  | fields {fields : List Field} {f : BlockFault} (violated : Violation fields f) : FaultCause (.pack fields) f

/-- A well-formed instruction whose plan is a fault has one of these causes for it. -/
theorem faultCause_of_plan {i : Instr} {f : BlockFault} (wf : i.wellFormed = true) (h : plan i = .fault f) :
    FaultCause i f := by
  cases i with
  | startTof | reset | init => cases h
  | writeReg0 v | writeReg1 v | writeReg2 v | writeReg3 v | writeReg4 v | writeReg5 v | writeReg6 v => cases h
  | readReg0 k | readReg1 k | readReg2 k | readReg3 k | readReg4 k | readReg5 k | readReg6 k =>
    exact absurd wf (readPlan_eq_fault h).1
  | pack fields =>
    cases checked : checkFields fields with
    | some g =>
      rw [plan, checked] at h
      cases h
      exact .fields (violation_of_checkFields checked)
    | none =>
      rw [plan, checked] at h
      cases h
  | sendCommand cmd =>
    by_cases legal : isCommand cmd = true
    · rw [plan, if_pos legal] at h
      cases h
    · rw [plan, if_neg legal] at h
      cases h
      exact .command legal
  | writeRegister r v =>
    rcases indexedPlan_eq_fault h with ⟨illegal, rfl⟩ | ⟨_, later⟩
    · exact .writeIndex v illegal
    · cases later
  | readBytes k r =>
    rcases indexedPlan_eq_fault h with ⟨illegal, rfl⟩ | ⟨legal, later⟩
    · exact .readIndex k illegal
    · obtain ⟨illegal, rfl⟩ := readPlan_eq_fault later
      exact .count legal illegal
  | readRegisterUpperHalf r =>
    rcases indexedPlan_eq_fault h with ⟨illegal, rfl⟩ | ⟨_, later⟩
    · exact .upperHalfIndex illegal
    · cases later
  | cfgStart | cfgWidth => cases h

/-- Settles O42: the cause of the fault, read off the instruction's plan, in the terms of R130 (ill-formed wire reads
are left out: log entry 9; a fault as a next state: log entry 11). -/
theorem faultsComeFromTheirOperations : Obligations.FaultsComeFromTheirOperations := by
  intro i s t f wf h hf
  have above {r : RegIndex} (illegal : ¬ indexLegal r = true) : 6 < r.toNat :=
    not_le.mp (mt (indexLegal_iff r).mpr illegal)
  cases faultCause_of_plan wf (plan_eq_fault_of_exec h hf) with
  | command illegal => exact ⟨rfl, by simpa [isCommand_iff] using illegal⟩
  | writeIndex v illegal => exact ⟨above illegal, .inl ⟨v, rfl⟩⟩
  | readIndex k illegal => exact ⟨above illegal, .inr (.inl ⟨k, rfl⟩)⟩
  | upperHalfIndex illegal => exact ⟨above illegal, .inr (.inr rfl)⟩
  | count legal illegal =>
    have outside := mt (countInRange_iff _).mpr illegal
    exact ⟨by omega, _, (indexLegal_iff _).mp legal, rfl⟩
  | fields violated =>
    cases violated with
    | outOfRange place outside => exact ⟨_, rfl, _, place, outside⟩
    | overflow place tooLarge => exact ⟨_, rfl, _, place, not_lt.mp tooLarge⟩
    | overlap order first second share => exact ⟨order, _, rfl, _, _, first, second, share⟩

end Sys2Proof.Machine
end

section
/-! Resets and hazards (70_reset_and_hazards.md): a run of the host keeps the boot order and the order of the cycles
(R153 to R155, R158, R160), a configuration is never elided (R162), and a wait and an idle step have no effect on the
block (R164). -/

namespace Sys2Proof.Machine

-- ---------------------------------------------------------------- a run of the host

/-- A log that keeps the protocol goes on keeping it with frames that are asked for at the places that follow. -/
theorem keepsProtocol_append {g : Config.Reg1} {log es : List LogEntry} (keeps : keepsProtocol g log = true)
    (next : ∀ j e, es[j]? = some e → frameKeepsProtocol g e (log.length + j) = true) :
    keepsProtocol g (log ++ es) = true := by
  rw [keepsProtocol_iff] at keeps ⊢
  intro n e he
  by_cases old : n < log.length
  · rw [List.getElem?_append_left old] at he
    exact keeps n e he
  · rw [List.getElem?_append_right (not_lt.mp old)] at he
    have kept := next _ e he
    rwa [Nat.add_sub_of_le (not_lt.mp old)] at kept

/-- The frames of the boot order keep the protocol, whatever the static words and the answer (R153, D28). -/
theorem keepsProtocol_bootEntries (g : Config.Reg1) (w : StaticWords) (rx : List Byte) :
    keepsProtocol g (bootEntries w rx) = true := rfl

/-- `n` cycles begun where a cycle may begin complete: seven frames and one point each, the mask kept, and the log
still keeps the protocol (R154, R160). -/
theorem hostCycles_log (n : Nat) {m : Nat} {s : State} (idle : PortsIdle s) (length : s.log.length = 7 + 7 * m)
    (keeps : keepsProtocol Config.reg1 s.log = true) (d : HostData) : ∃ ps t es,
    hostCycles n d s = some ({ d with points := d.points ++ ps }, t) ∧ ps.length = n ∧ t.log = s.log ++ es ∧
      es.length = 7 * n ∧ keepsProtocol Config.reg1 t.log = true := by
  induction n generalizing m s d with
  | zero => exact ⟨[], s, [], by simp [hostCycles], rfl, by simp, rfl, keeps⟩
  | succ n ih =>
    obtain ⟨p, u, cycle, run, idle', log, seven, asked⟩ := hostCycle_log idle d
    have length' : u.log.length = 7 + 7 * (m + 1) := by rw [log, List.length_append]; omega
    have keeps' : keepsProtocol Config.reg1 u.log = true :=
      log ▸ keepsProtocol_append keeps fun j e he => length ▸ asked m j e he
    obtain ⟨ps, t, es, runs, points, logs, lengths, kept⟩ :=
      ih idle' length' keeps' { d with points := d.points ++ [p] }
    refine ⟨p :: ps, t, cycle ++ es, ?_, by rw [List.length_cons, points], by rw [logs, log, List.append_assoc],
      by rw [List.length_append]; omega, kept⟩
    rw [hostCycles, run]
    simpa using runs

/-- Settles O54: the boot order leaves its seven frames and the self-test's mask, and by induction each cycle leaves its
own seven frames, one point and the mask (the host side: log entry 10; the order of the static writes: D28; `REG1`: log
entry 6). -/
theorem hostRunKeepsTheProtocol : Obligations.HostRunKeepsTheProtocol := by
  intro w n mask s idle empty
  obtain ⟨u, rx, booted, idle', log⟩ := boot_log idle w { deviceStateMask := mask, points := [] }
  rw [empty, List.nil_append] at log
  obtain ⟨ps, t, es, runs, points, logs, length, keeps⟩ :=
    hostCycles_log n (m := 0) idle' (by rw [log]; rfl) (log ▸ keepsProtocol_bootEntries _ w rx)
      { deviceStateMask := selfTestMask mask (readValue rx), points := [] }
  rw [log] at logs
  refine ⟨_, t, rx, by rw [hostRun, booted]; exact runs, ?_, keeps, points, by rw [logs]; rfl, rfl⟩
  rw [logs, List.length_append, length]
  rfl

-- ---------------------------------------------------------------- a configuration done twice

/-- A configuration adds to the log the write of its list's packed word to register index 1 (R102, R103). -/
theorem runPlan_configure_log (fields : List Field) (s : State) :
    (runPlan (.configure fields) s).log = s.log ++ [{ tx := writeTx 1#3 (packWord fields), k := 0, rx := [] }] :=
  performFrame_log _ _ _

theorem exists_plan_eq_configure {i : Instr} (isCfg : i = .cfgStart ∨ i = .cfgWidth) :
    ∃ fields, plan i = .configure fields := by
  rcases isCfg with rfl | rfl
  · exact ⟨startFields Config.reg1, rfl⟩
  · exact ⟨widthFields Config.reg1, rfl⟩

/-- Settles O39: the plan of a configuration is the instruction's alone, so both runs write the same word. -/
theorem configurationIsNeverElided : Obligations.ConfigurationIsNeverElided := by
  intro i s isCfg
  obtain ⟨fields, planned⟩ := exists_plan_eq_configure isCfg
  refine ⟨_, _, { tx := writeTx 1#3 (packWord fields), k := 0, rx := [] }, exec_plan i s, exec_plan i _, ?_⟩
  rw [planned, runPlan_configure_log, runPlan_configure_log, List.append_assoc]
  rfl

-- ---------------------------------------------------------------- waits and idleness

theorem step_cons {s : State} {e : HostEvent} {rest : List HostEvent} (head : s.pending = e :: rest) :
    step s = runEvent e rest s := by
  rw [step, head]

theorem step_nil {s : State} (nothing : s.pending = []) : step s = stayIdle s := by
  rw [step, nothing]

/-- Settles O8: either wait only takes its event, and an idle step returns the state (waits as events and the idle step:
log entries 2 and 8). -/
theorem waitsAndIdlenessChangeNothing : Obligations.WaitsAndIdlenessChangeNothing :=
  fun _ _ _ => ⟨step_cons, step_cons, step_nil⟩

end Sys2Proof.Machine
end

section
/-! The wire reads no frame has (44_wire_commands.md): a read command with a `k` outside 1 to 4, to which the model
gives the answer of `READ_BYTES` (log entry 9). -/

namespace Sys2Proof.Machine

/-- Settles O32: an illegal count fails the one check of the counted read, at each of the seven indices (the answer to
such a read: log entry 9; a fault as a next state: log entry 11; wire commands as instructions: log entry 1). -/
theorem readCommandOfIllegalCount : Obligations.ReadCommandOfIllegalCount := by
  intro k s outside
  have illegal : ¬ countInRange k = true := mt (countInRange_iff k).mp (by omega)
  have faults (r : RegIndex) :=
    congrArg (Host.Outcome.next (φ := Fault) (ρ := Refusal)) (readCounted_illegal illegal r s)
  exact ⟨faults 0#3, faults 1#3, faults 2#3, faults 3#3, faults 4#3, faults 5#3, faults 6#3⟩

end Sys2Proof.Machine
end
